-- ==== Sys2Proof/Word.lean ====
section
/-! DEFINITION. The words of `hamming_core` and the level of one wire.

Every bus of the core is a bit vector whose bit `i` is vector index `i` (10_state R27, R28; 20_memory R41).
An input wire is not always a bit: 60_exceptions R152 and 70_reset R173 speak of wires that are undriven or
unknown, and ask that a model fault on them, so an input wire has a `Level`. -/

namespace Sys2Proof

/-- The operation select field `op`, 3 bits (00_scope R8, 30_encoding R61). -/
abbrev Opcode := BitVec 3

/-- The length field `len`, 4 bits (00_scope R8, 30_encoding R62). -/
abbrev LenField := BitVec 4

/-- The data-in bus `din`, and any 8-bit codeword bus (00_scope R8, 10_state R27). -/
abbrev Byte := BitVec 8

/-- The command word `cmd[14:0]` (30_encoding R60). -/
abbrev CmdWord := BitVec 15

/-- The response word `rsp[23:0]` (30_encoding R63). -/
abbrev RspWord := BitVec 24

/-- What one input wire carries: a bit, the unknown level X, or the high-impedance level Z of an undriven wire
(60_exceptions R152, 70_reset R173). -/
inductive Level where
  | driven (b : Bool)
  | unknown
  | floating
deriving DecidableEq, Repr

/-- A bus of `n` input wires; wire `i` is port bit `i` (00_scope R10). -/
abbrev Wires (n : Nat) := Vector Level n

end Sys2Proof
end

