-- ==== Sys2Proof/Config.lean ====
section
/-! DEFINITION. The implementation parameters of 00_scope R7 and R8.

All but one are fixed numbers ("The model takes them as constants, not arguments", R7). The open one,
`T_SETTLE` (R8; 92_eei_decisions D19; 93 entry I7), has no body: nothing in Lean knows its value. -/

namespace Sys2Proof.Config

/-- `N_DATA`: data bits per encode (00_scope R7). -/
def nData : Nat := 4

/-- `N_CW7`: length of a Hamming(7,4) codeword (00_scope R7). -/
def nCw7 : Nat := 7

/-- `N_CW8`: length of an extended Hamming(8,4) codeword (00_scope R7). -/
def nCw8 : Nat := 8

/-- `SYN_W`: syndrome width in bits (00_scope R7). -/
def synW : Nat := 3

/-- `OP_W`, `LEN_W` and `DIN_W`: the widths of the command's three fields (00_scope R8). -/
def opW : Nat := 3

@[inherit_doc opW] def lenW : Nat := 4

@[inherit_doc opW] def dinW : Nat := 8

/-- `CMD_W`: width of the command word `{op, len, din}` (00_scope R8). -/
def cmdW : Nat := 15

/-- `RSP_W`: width of the response word (00_scope R8). -/
def rspW : Nat := 24

/-- `HAS_DECAUTO` (00_scope R8): the optional operation is built, so `Decode.lean` gives `op` = 100 a meaning
and there is no variant of this model in which that code is reserved. -/
def hasDecauto : Bool := true

/-- `T_SETTLE`, the propagation delay from a stable command to a stable response, in a unit the spec leaves open
(70_reset R174; treatment `parameter`, 93 entry I7). No response depends on it. -/
opaque tSettle : Nat

end Sys2Proof.Config
end

