-- ==== Sys2Proof/Syntax.lean ====
section
/-! DEFINITION. The commands of `hamming_core` as syntax: one constructor per row of spec/opcode_table.json. -/

namespace Sys2Proof

/-- A command. Each constructor is a row of the opcode table (30_encoding R71) and carries the two operand fields of
the command word, `len` and `din`, whole: the `len` field because a valid operation with a wrong length is still a
command of that operation, which answers InvalidLength (30_encoding R66), and every bit of `din` because the bits an
operation ignores are don't-care, not reserved (30_encoding R69).

DECAUTO has two rows, one for each path of 42_decoders R132: `decauto7` is `len` < 8 and `decauto8` is `len` ≥ 8
(see `Instr.wellFormed`). -/
inductive Instr where
  /-- `op` = 000, `encode(data4, extended=false)` (41_encoders R101). -/
  | enc74 (len : LenField) (din : Byte)
  /-- `op` = 001, `encode(data4, extended=true)` (41_encoders R103). -/
  | enc84 (len : LenField) (din : Byte)
  /-- `op` = 010, `decodeHamming7(bits)` (42_decoders R125). -/
  | dec74 (len : LenField) (din : Byte)
  /-- `op` = 011, `decodeHamming8(bits)` (42_decoders R130). -/
  | dec84 (len : LenField) (din : Byte)
  /-- `op` = 100 on the 7-bit path, `len` < 8 (42_decoders R132). -/
  | decauto7 (len : LenField) (din : Byte)
  /-- `op` = 100 on the 8-bit path, `len` ≥ 8 (42_decoders R132). -/
  | decauto8 (len : LenField) (din : Byte)
  /-- `op` = 101, reserved (60_exceptions R153). -/
  | reserved101 (len : LenField) (din : Byte)
  /-- `op` = 110, reserved (60_exceptions R153). -/
  | reserved110 (len : LenField) (din : Byte)
  /-- `op` = 111, reserved (60_exceptions R153). -/
  | reserved111 (len : LenField) (din : Byte)
deriving DecidableEq, Repr

/-- One row of spec/opcode_table.json: a command word `c` is in the row when `c &&& mask = pattern`. -/
structure OpcodeRow where
  rowId    : String
  mnemonic : String
  pattern  : CmdWord
  mask     : CmdWord
deriving DecidableEq, Repr

end Sys2Proof
end

