-- ==== Sys2Proof/WellFormed.lean ====
section
/-! DEFINITION. Which terms of `Instr` are commands of the core. -/

namespace Sys2Proof

/-- The one check: the two rows of DECAUTO split the `len` field between them, "length ≥ 8 → treat as 8-bit;
otherwise 7-bit" (42_decoders R132). Every other operation admits every `len`, since a wrong one is answered with
InvalidLength and is no encoding error (30_encoding R66, R69). -/
def Instr.wellFormed : Instr → Bool
  | .enc74 _ _ => true
  | .enc84 _ _ => true
  | .dec74 _ _ => true
  | .dec84 _ _ => true
  | .decauto7 len _ => decide (len.toNat < 8)
  | .decauto8 len _ => decide (8 ≤ len.toNat)
  | .reserved101 _ _ => true
  | .reserved110 _ _ => true
  | .reserved111 _ _ => true

end Sys2Proof
end

