-- ==== Sys2Proof/Decode.lean ====
section
/-! DEFINITION. The command word: its fields, the decoder, the encoder and the opcode table (30_encoding R60, R61,
R68, R71).

Every 15-bit word is a command, so `decode` is total on `CmdWord`. A number that does not fit the 15 wires is
rejected by name (`DecodeError.tooWide`). -/

namespace Sys2Proof

/-! ### The fields of the command word (30_encoding R60) -/

/-- `cmd[14:12]`. -/
def cmdOp (c : CmdWord) : Opcode := c.extractLsb' 12 3

/-- `cmd[11:8]`. -/
def cmdLen (c : CmdWord) : LenField := c.extractLsb' 8 4

/-- `cmd[7:0]`. -/
def cmdDin (c : CmdWord) : Byte := c.extractLsb' 0 8

/-- `cmd = {op, len, din}` (30_encoding R60). -/
def packCommand (op : Opcode) (len : LenField) (din : Byte) : CmdWord := op ++ (len ++ din)

/-! ### The decoder -/

/-- The operation that `op` selects (30_encoding R61), all eight values written out; DECAUTO's row is chosen by
`len` (42_decoders R132, 30_encoding R68). -/
def decodeFields (op : Opcode) (len : LenField) (din : Byte) : Instr :=
  match op with
  | 0b000#3 => .enc74 len din
  | 0b001#3 => .enc84 len din
  | 0b010#3 => .dec74 len din
  | 0b011#3 => .dec84 len din
  | 0b100#3 => if 8 ≤ len.toNat then .decauto8 len din else .decauto7 len din
  | 0b101#3 => .reserved101 len din
  | 0b110#3 => .reserved110 len din
  | 0b111#3 => .reserved111 len din

/-- The command a 15-bit word stands for (30_encoding R60, R66: "The case split covers all eight `op` values"). -/
def decode (c : CmdWord) : Instr := decodeFields (cmdOp c) (cmdLen c) (cmdDin c)

/-- Why a number is no command word. -/
inductive DecodeError where
  /-- It needs more than the 15 wires of the command port (30_encoding R68: "Every command is exactly 15 bits").
  Safe: nothing runs. -/
  | tooWide (w : Nat)
deriving DecidableEq, Repr

/-- Decoding of a number, total, rejecting by name what does not fit the command port. -/
def decodeNat (w : Nat) : Except DecodeError Instr :=
  if w < 2 ^ 15 then .ok (decode (BitVec.ofNat 15 w)) else .error (.tooWide w)

/-! ### The encoder -/

/-- The `op` code of a command (30_encoding R61). -/
def Instr.opcode : Instr → Opcode
  | .enc74 _ _ => 0b000#3
  | .enc84 _ _ => 0b001#3
  | .dec74 _ _ => 0b010#3
  | .dec84 _ _ => 0b011#3
  | .decauto7 _ _ => 0b100#3
  | .decauto8 _ _ => 0b100#3
  | .reserved101 _ _ => 0b101#3
  | .reserved110 _ _ => 0b110#3
  | .reserved111 _ _ => 0b111#3

/-- The `len` field of a command. -/
def Instr.lenField : Instr → LenField
  | .enc74 len _ => len
  | .enc84 len _ => len
  | .dec74 len _ => len
  | .dec84 len _ => len
  | .decauto7 len _ => len
  | .decauto8 len _ => len
  | .reserved101 len _ => len
  | .reserved110 len _ => len
  | .reserved111 len _ => len

/-- The `din` bus of a command. -/
def Instr.dinField : Instr → Byte
  | .enc74 _ din => din
  | .enc84 _ din => din
  | .dec74 _ din => din
  | .dec84 _ din => din
  | .decauto7 _ din => din
  | .decauto8 _ din => din
  | .reserved101 _ din => din
  | .reserved110 _ din => din
  | .reserved111 _ din => din

/-- The command word of a command (30_encoding R60). -/
def encode (i : Instr) : CmdWord := packCommand i.opcode i.lenField i.dinField

/-! ### The opcode table (30_encoding R71) -/

/-- The nine rows of spec/opcode_table.json, in its order. -/
def opcodeTable : List OpcodeRow :=
  [ ⟨"ENC74", "ENC74", 0x0400#15, 0x7F00#15⟩,
    ⟨"ENC84", "ENC84", 0x1400#15, 0x7F00#15⟩,
    ⟨"DEC74", "DEC74", 0x2700#15, 0x7F00#15⟩,
    ⟨"DEC84", "DEC84", 0x3800#15, 0x7F00#15⟩,
    ⟨"DECAUTO7", "DECAUTO", 0x4700#15, 0x7F00#15⟩,
    ⟨"DECAUTO8", "DECAUTO", 0x4800#15, 0x7F00#15⟩,
    ⟨"RESERVED_101", "RESERVED_101", 0x5000#15, 0x7000#15⟩,
    ⟨"RESERVED_110", "RESERVED_110", 0x6000#15, 0x7000#15⟩,
    ⟨"RESERVED_111", "RESERVED_111", 0x7000#15, 0x7000#15⟩ ]

/-- The word lies in the row. -/
def OpcodeRow.accepts (r : OpcodeRow) (c : CmdWord) : Bool := c &&& r.mask == r.pattern

/-- The row a constructor stands for, by its `row_id`. -/
def Instr.rowId : Instr → String
  | .enc74 _ _ => "ENC74"
  | .enc84 _ _ => "ENC84"
  | .dec74 _ _ => "DEC74"
  | .dec84 _ _ => "DEC84"
  | .decauto7 _ _ => "DECAUTO7"
  | .decauto8 _ _ => "DECAUTO8"
  | .reserved101 _ _ => "RESERVED_101"
  | .reserved110 _ _ => "RESERVED_110"
  | .reserved111 _ _ => "RESERVED_111"

/-- The host's question: what the decoder reads from a table word. The core has no memory that could lay the word
out in bytes (10_state R25), so the word goes to the 15 command wires as it is; bits above `nbits` are 0. -/
def decodeTableWord (nbits w : Nat) : Option Instr :=
  match decodeNat (w % 2 ^ nbits) with
  | .ok i => some i
  | .error _ => none

end Sys2Proof
end

