-- ==== Sys2Proof/Machine/State.lean ====
section
/-! DEFINITION. The ports of the blocks, and the state of the machine.

THE CORE HOLDS NO STATE (10_state R20 to R26): no register, program counter, flag, control register, memory or hidden
state. What a machine with a step can hold is therefore what stands ON ITS PORTS: the levels on the input wires
(10_state R27) and what the output wires carry (10_state R28). Beside them stands the other agent of 10_state R35,
the host, as plain data: the commands it has still to present (`pending`), which is the model's own field. -/

namespace Sys2Proof.Machine

/-! ### Codes (30_encoding R64, R65) -/

/-- The decode status, "one of {Correct, Corrected, DoubleErrorDetected}" (30_encoding R64). -/
inductive Status where
  | correct
  | corrected
  | doubleErrorDetected
deriving DecidableEq, Repr

/-- The error codes (30_encoding R65). `invalidBitValue` has a code and is never driven (60_exceptions R152). -/
inductive ErrorCode where
  | none
  | invalidLength
  | invalidBitValue
  | invalidOperation
deriving DecidableEq, Repr

/-! ### The ports of the blocks (10_state R28, R29, R32) -/

/-- The outputs of `parity_check_matrix_mult` (10_state R29). -/
structure Parity where
  p1 : Bool
  p2 : Bool
  p4 : Bool
deriving DecidableEq, Repr

/-- The outputs of `hamming_syndrome_decoder` (10_state R32), as the source's DecodeResult record:
`errorIndex` is `none` where `eidx_v` = 0 (92_eei_decisions D12). -/
structure DecodeResult where
  corr       : Byte
  status     : Status
  syndrome   : BitVec 3
  opv        : Bool
  errorIndex : Option (BitVec 3)
deriving DecidableEq, Repr

/-- The outputs of `hamming_core`, port by port (10_state R28). -/
structure Response where
  dout     : Byte
  olen     : BitVec 4
  status   : BitVec 2
  syndrome : BitVec 3
  opv      : Bool
  eidxV    : Bool
  eidx     : BitVec 3
  err      : BitVec 2
deriving DecidableEq, Repr

/-- What the output wires carry: nothing the spec specifies (70_reset R170: "unspecified before that, or while any used
input is undriven"), or a response. -/
inductive OutputPorts where
  | unspecified
  | carry (r : Response)
deriving DecidableEq, Repr

/-- The inputs of `hamming_core` (10_state R27) at the moment the host samples the response: a level for each wire, and
whether the host has held them stable for `T_SETTLE` by then (70_reset R175). -/
structure InputPorts where
  op      : Wires 3
  len     : Wires 4
  din     : Wires 8
  settled : Bool
deriving DecidableEq, Repr

/-- The three input ports, by name (10_state R27). -/
inductive InputPort where
  | op
  | len
  | din
deriving DecidableEq, Repr

/-! ### How a step can stop -/

/-- Why an evaluation gives no response. Neither is an error of the core's own taxonomy: those are responses
(60_exceptions R151). Both are the host breaking a duty of 70_reset R172 or R175. -/
inductive Fault where
  /-- Raised by `readCommand` (Operands.lean) when a wire the operation uses is undriven or unknown: "A model must treat
  an evaluation of such a command as a fault (60_exceptions.md rule R152), never as any particular value" (70_reset
  R173; 93 entry I3). Safe: the machine stops. -/
  | undrivenInput (port : InputPort)
  /-- Raised by `readCommand` (Operands.lean) when the host samples before its inputs were stable for `T_SETTLE`: "A
  response sampled earlier, or across an input change, is unspecified" (70_reset R175; 93 entry I4: `fault` in a model
  that represents sampling). Safe: the machine stops. -/
  | sampledBeforeSettle
deriving DecidableEq, Repr

/-- Why an instruction has no meaning. -/
inductive Refusal where
  /-- Raised by an arm of `exec` whose instruction has no meaning yet. Safe: the machine stops. No arm raises it. -/
  | notModelled (mnemonic : String)
deriving DecidableEq, Repr

/-! ### The state -/

/-- The machine: the core's ports and the host's commands still to come. -/
structure State where
  /-- The levels the host drives (10_state R27). -/
  inputs  : InputPorts
  /-- What the output wires carry (10_state R28). -/
  outputs : OutputPorts
  /-- THE MODEL'S OWN: the input levels the host will present next, in its order (10_state R35; R22: "The order of
  operations is the order in which the host presents commands"). When it is empty the host leaves its inputs as they
  are (notes/assumptions/2). -/
  pending : List InputPorts
deriving DecidableEq, Repr

/-- Input ports that nobody drives. -/
def InputPorts.undriven : InputPorts where
  op := Vector.replicate 3 .floating
  len := Vector.replicate 4 .floating
  din := Vector.replicate 8 .floating
  settled := false

/-- Power-up: "The core has no reset input and no state to reset" (70_reset R170), so no output is specified, and the
host drives nothing and plans nothing yet (DESIGN CHOICE, safe: notes/assumptions/3). -/
def State.reset : State where
  inputs := InputPorts.undriven
  outputs := .unspecified
  pending := []

end Sys2Proof.Machine
end

