-- ==== Sys2Proof/Machine/Flags.lean ====
section
/-! DEFINITION. The status computations: parity of a vector, the codes of the status and error fields.

The core stores no flag (10_state R23). These are the computations behind the output fields `status`, `opv` and `err`. -/

namespace Sys2Proof.Machine

/-- `XOR(v)`: the XOR of every element, 1 exactly when `v` has an odd number of ones (00_scope R11). -/
def xorAll {n : Nat} (v : BitVec n) : Bool :=
  (List.range n).foldl (fun acc i => acc ^^ v.getLsbD i) false

/-- `overallXor = XOR(r[7:0])`, which the decoder drives as overallParityViolated (42_decoders R127). -/
def overallXor (r : Byte) : Bool := xorAll r

/-- The `status` codes (30_encoding R64). -/
def Status.code : Status → BitVec 2
  | .correct => 0b00#2
  | .corrected => 0b01#2
  | .doubleErrorDetected => 0b10#2

/-- The `err` codes (30_encoding R65). -/
def ErrorCode.code : ErrorCode → BitVec 2
  | .none => 0b00#2
  | .invalidLength => 0b01#2
  | .invalidBitValue => 0b10#2
  | .invalidOperation => 0b11#2

end Sys2Proof.Machine
end

