-- ==== Sys2Proof/Machine/Operands.lean ====
section
/-! DEFINITION. Operands: which part of `din` an operation uses, how levels on wires become bits, and how the command
on the input ports is read.

No operation has an immediate, a register operand or a scaled field (30_encoding R67). -/

namespace Sys2Proof.Machine

/-! ### The operand forms (20_memory R43, 30_encoding R67) -/

/-- `din[3:0]`, the data of an encode. -/
def dataOperand (din : Byte) : BitVec 4 := din.extractLsb' 0 4

/-- `din[6:0]`, the received word of a 7-bit decode and the body of an 8-bit one. -/
def bodyOperand (din : Byte) : BitVec 7 := din.extractLsb' 0 7

/-- `flip(v, i)`: index `i` inverted and every other element unchanged (00_scope R12). -/
def flipBit {n : Nat} (v : BitVec n) (i : Nat) : BitVec n := v ^^^ BitVec.twoPow n i

/-- The `din` bits the operation uses, as a mask: `din[3:0]` for an encode, `din[6:0]` for a 7-bit decode, `din[7:0]`
for an 8-bit decode, none for a reserved code (20_memory R43). DECAUTO uses those of the path that `len` selects
(42_decoders R132). What a valid operation uses does not depend on its length being right (DEDUCED, safe:
notes/assumptions/5). -/
def usedDin (op : Opcode) (len : LenField) : Byte :=
  match op with
  | 0b000#3 => 0x0F#8
  | 0b001#3 => 0x0F#8
  | 0b010#3 => 0x7F#8
  | 0b011#3 => 0xFF#8
  | 0b100#3 => if 8 ≤ len.toNat then 0xFF#8 else 0x7F#8
  | 0b101#3 => 0x00#8
  | 0b110#3 => 0x00#8
  | 0b111#3 => 0x00#8

/-! ### From bits to levels and back -/

/-- Wires driven with the bits of `v`: wire `i` carries bit `i` (00_scope R10, 20_memory R41). -/
def driveWires {n : Nat} (v : BitVec n) : Wires n := Vector.ofFn fun i => .driven (v.getLsbD i.val)

/-- The level is a bit. -/
def Level.isDriven : Level → Bool
  | .driven _ => true
  | .unknown => false
  | .floating => false

/-- The bit a level carries. An undriven or unknown wire is read only where the operation ignores it, and then as 0
(DEDUCED, safe: notes/assumptions/6). -/
def Level.bit : Level → Bool
  | .driven b => b
  | .unknown => false
  | .floating => false

/-- Every wire that `used` marks is driven. -/
def usedDriven {n : Nat} (used : BitVec n) (w : Wires n) : Bool :=
  (List.finRange n).all fun i => !used.getLsbD i.val || Level.isDriven w[i]

/-- The bits of a bus, wire `i` at bit `i` (00_scope R10). -/
def wireBits {n : Nat} (w : Wires n) : BitVec n := BitVec.ofFnLE fun i => Level.bit w[i]

/-- The bits on the wires, where every used one is driven (70_reset R172 item 1, R173). -/
def readWires {n : Nat} (used : BitVec n) (w : Wires n) : Option (BitVec n) :=
  if usedDriven used w then some (wireBits w) else none

/-! ### The command on the input ports -/

/-- Input ports driven with a command word and held long enough (70_reset R172, R175). -/
def InputPorts.ofCommand (c : CmdWord) : InputPorts where
  op := driveWires (cmdOp c)
  len := driveWires (cmdLen c)
  din := driveWires (cmdDin c)
  settled := true

/-- The command that stands on the ports: `op` and `len` must be driven whole and `din` where the operation uses it
(70_reset R173), and all of it held for `T_SETTLE` (70_reset R175). Where several duties are broken the fault names
the first of them in this order (DESIGN CHOICE, safe: notes/assumptions/7). -/
def readCommand (p : InputPorts) : Except Fault CmdWord :=
  if p.settled then
    match readWires 0b111#3 p.op with
    | none => .error (.undrivenInput .op)
    | some op =>
      match readWires 0b1111#4 p.len with
      | none => .error (.undrivenInput .len)
      | some len =>
        match readWires (usedDin op len) p.din with
        | none => .error (.undrivenInput .din)
        | some din => .ok (packCommand op len din)
  else .error .sampledBeforeSettle

end Sys2Proof.Machine
end

