-- ==== Sys2Proof/Machine/Ops.lean ====
section
/-! DEFINITION. The named operations over the ports: raising an error, answering with a response, the length check, and
the response word.

The core has no memory, no register and no address (20_memory R40, R42, R45, R49; 10_state R21, R25), so there is no
operation over memory or registers here. Its one data movement is from `din` to the output ports. It has no trap:
"An error saves no state, changes no mode and transfers control nowhere" (60_exceptions R158), so raising an error is
the response `raiseError`, and there is no return from one (60_exceptions R159). -/

namespace Sys2Proof.Machine

/-! ### Raising an error (60_exceptions R151) -/

/-- `raise E`: `err = code(E)` and every other field 0 (60_exceptions R151). -/
def raiseError (e : ErrorCode) : Response where
  dout := 0x00#8
  olen := 0#4
  status := 0b00#2
  syndrome := 0b000#3
  opv := false
  eidxV := false
  eidx := 0b000#3
  err := e.code

/-- The length precondition of an operation: the response when `len` is the required one, else InvalidLength
(30_encoding R66, 60_exceptions R150). -/
def requireLength (required : Nat) (len : LenField) (r : Response) : Response :=
  if len.toNat = required then r else raiseError .invalidLength

/-! ### Results onto the output ports -/

/-- The response of an encode: the codeword and its length, the decode fields at their fixed values (41_encoders R101,
R103; 92_eei_decisions D11). -/
def encodeResponse (olen : Nat) (codeword : Byte) : Response where
  dout := codeword
  olen := BitVec.ofNat 4 olen
  status := Status.correct.code
  syndrome := 0b000#3
  opv := false
  eidxV := false
  eidx := 0b000#3
  err := ErrorCode.none.code

/-- The response of a decode: each field of the decode result on its port (42_decoders R125, R130). No error index is
`eidx_v` = 0 and `eidx` = 0 (92_eei_decisions D12). -/
def decodeResponse (olen : Nat) (d : DecodeResult) : Response where
  dout := d.corr
  olen := BitVec.ofNat 4 olen
  status := d.status.code
  syndrome := d.syndrome
  opv := d.opv
  eidxV := d.errorIndex.isSome
  eidx := d.errorIndex.getD 0b000#3
  err := ErrorCode.none.code

/-- The evaluation's response on the output ports. Nothing else changes, since the core has no state that an operation
could change (10_state R20, R21, R23). -/
def State.answer (s : State) (r : Response) : State := { s with outputs := .carry r }

/-- The host's next move, before an evaluation: it presents its next command, or leaves its inputs as they are
(10_state R35). -/
def State.present (s : State) : State :=
  match s.pending with
  | [] => s
  | p :: rest => { s with inputs := p, pending := rest }

/-! ### The response word (30_encoding R63) -/

/-- `rsp = {olen, err, eidx, eidx_v, opv, syndrome, status, dout}` (30_encoding R63). -/
def Response.word (r : Response) : RspWord :=
  r.olen ++ (r.err ++ (r.eidx ++ (BitVec.ofBool r.eidxV ++ (BitVec.ofBool r.opv ++ (r.syndrome ++ (r.status ++ r.dout))))))

/-- The ports that a response word stands for. A word with `status` = 11 or `err` = 10 is refused, since it is never
driven (93 entry I6; 30_encoding R64, R65). -/
def Response.ofWord (w : RspWord) : Option Response :=
  if w.extractLsb' 8 2 = 0b11#2 ∨ w.extractLsb' 18 2 = 0b10#2 then none
  else some
    { dout := w.extractLsb' 0 8
      olen := w.extractLsb' 20 4
      status := w.extractLsb' 8 2
      syndrome := w.extractLsb' 10 3
      opv := w.getLsbD 13
      eidxV := w.getLsbD 14
      eidx := w.extractLsb' 15 3
      err := w.extractLsb' 18 2 }

end Sys2Proof.Machine
end

