-- ==== Sys2Proof/Machine/Blocks.lean ====
section
/-! DEFINITION. The four named blocks (00_scope R4): `parity_check_matrix_mult`, `hamming_74_encoder`,
`hamming_84_encoder` and `hamming_syndrome_decoder`. The parity primitive is written once and every other block uses it
(10_state R33). -/

namespace Sys2Proof.Machine

/-! ### `parity_check_matrix_mult` (40_parity_check R90) -/

/-- PARITY: the three parity checks over seven bits; `c[i]` is position `i + 1`. It raises no error (60_exceptions R155). -/
def parityCheckMatrixMult (c : BitVec 7) : Parity where
  p1 := c.getLsbD 0 ^^ c.getLsbD 2 ^^ c.getLsbD 4 ^^ c.getLsbD 6
  p2 := c.getLsbD 1 ^^ c.getLsbD 2 ^^ c.getLsbD 5 ^^ c.getLsbD 6
  p4 := c.getLsbD 3 ^^ c.getLsbD 4 ^^ c.getLsbD 5 ^^ c.getLsbD 6

/-- `s[2:0] = {p4, p2, p1}` (10_state R29). -/
def Parity.s (p : Parity) : BitVec 3 := BitVec.ofBool p.p4 ++ (BitVec.ofBool p.p2 ++ BitVec.ofBool p.p1)

/-- The matrix H, a row for each check: bit `j - 1` of a row is its entry for position `j` (40_parity_check R91). -/
def parityMatrixRow : Fin 3 → BitVec 7
  | 0 => 0b1010101#7
  | 1 => 0b1100110#7
  | 2 => 0b1111000#7

/-- The product `H · c` over GF(2): output `k` is the XOR of the bits of `c` that row `k` selects (40_parity_check R91). -/
def parityByMatrix (c : BitVec 7) : BitVec 3 :=
  BitVec.ofFnLE fun k => xorAll (parityMatrixRow k &&& c)

/-! ### The encoders (41_encoders) -/

/-- The data bits at positions 3, 5, 6, 7 and zero at positions 1, 2, 4 (41_encoders R100). -/
def place (d : BitVec 4) : BitVec 7 :=
  BitVec.ofFnLE fun
    | 0 => false
    | 1 => false
    | 2 => d.getLsbD 0
    | 3 => false
    | 4 => d.getLsbD 1
    | 5 => d.getLsbD 2
    | 6 => d.getLsbD 3

/-- The word with its parity positions 1, 2, 4 set to p1, p2, p4 (41_encoders R101: `c[0] = p1; c[1] = p2; c[3] = p4`). -/
def setParity (c : BitVec 7) (p : Parity) : BitVec 7 :=
  BitVec.ofFnLE fun
    | 0 => p.p1
    | 1 => p.p2
    | 2 => c.getLsbD 2
    | 3 => p.p4
    | 4 => c.getLsbD 4
    | 5 => c.getLsbD 5
    | 6 => c.getLsbD 6

/-- `hamming_74_encoder`: four data bits to a Hamming(7,4) codeword (41_encoders R101). -/
def hamming74Encoder (d : BitVec 4) : BitVec 7 := setParity (place d) (parityCheckMatrixMult (place d))

/-- `hamming_84_encoder`: the 7-bit codeword with its XOR as index 7 (41_encoders R103). -/
def hamming84Encoder (d : BitVec 4) : Byte :=
  BitVec.ofBool (xorAll (hamming74Encoder d)) ++ hamming74Encoder d

/-! ### `hamming_syndrome_decoder` (42_decoders) -/

/-- SYN: `syn = p4*4 + p2*2 + p1`, a natural number in 0..7 (42_decoders R120, R121). -/
def syndromeOf (body : BitVec 7) : Nat :=
  (parityCheckMatrixMult body).p4.toNat * 4 + (parityCheckMatrixMult body).p2.toNat * 2
    + (parityCheckMatrixMult body).p1.toNat

/-- DEC7, the Hamming(7,4) decode (42_decoders R122). With two or more errors the output is still exactly this
(42_decoders R124). -/
def dec7 (r : BitVec 7) : DecodeResult :=
  if syndromeOf r = 0 then
    { corr := r.setWidth 8, status := .correct, syndrome := 0#3, opv := false, errorIndex := none }
  else
    { corr := (flipBit r (syndromeOf r - 1)).setWidth 8
      status := .corrected
      syndrome := BitVec.ofNat 3 (syndromeOf r)
      opv := false
      errorIndex := some (BitVec.ofNat 3 (syndromeOf r - 1)) }

/-- DEC8, the extended Hamming(8,4) decode: the four cases of 42_decoders R128, exhaustive and mutually exclusive over
the pair (R129). -/
def dec8 (r : Byte) : DecodeResult :=
  match decide (syndromeOf (bodyOperand r) = 0), overallXor r with
  | true, false =>
    { corr := r, status := .correct, syndrome := 0#3, opv := false, errorIndex := none }
  | false, true =>
    { corr := flipBit r (syndromeOf (bodyOperand r) - 1)
      status := .corrected
      syndrome := BitVec.ofNat 3 (syndromeOf (bodyOperand r))
      opv := true
      errorIndex := some (BitVec.ofNat 3 (syndromeOf (bodyOperand r) - 1)) }
  | true, true =>
    { corr := flipBit r 7, status := .corrected, syndrome := 0#3, opv := true, errorIndex := some 7#3 }
  | false, false =>
    { corr := r
      status := .doubleErrorDetected
      syndrome := BitVec.ofNat 3 (syndromeOf (bodyOperand r))
      opv := false
      errorIndex := none }

/-- `hamming_syndrome_decoder`: one block with a mode input; `ext` = 0 ignores `r[7]` (10_state R32). -/
def hammingSyndromeDecoder (r : Byte) (ext : Bool) : DecodeResult :=
  if ext then dec8 r else dec7 (bodyOperand r)

end Sys2Proof.Machine
end

