-- ==== Sys2Proof/Machine/Decoders.lean ====
section
/-! DEFINITION. The meanings of DEC74, DEC84 and DECAUTO's two rows (42_decoders R125, R130, R132). -/

namespace Sys2Proof.Machine

/-- DEC74 (42_decoders R125): the decoder with `ext` = 0. -/
def dec74Response (din : Byte) : Response := decodeResponse Config.nCw7 (hammingSyndromeDecoder din false)

/-- DEC84 (42_decoders R130): the decoder with `ext` = 1. -/
def dec84Response (din : Byte) : Response := decodeResponse Config.nCw8 (hammingSyndromeDecoder din true)

/-- DEC74: InvalidLength when `len` ≠ 7, else the decode of `din[6:0]` (42_decoders R125, 60_exceptions R150). -/
def execDec74 (len : LenField) (din : Byte) (s : State) : Host.Outcome State Fault Refusal :=
  .next (s.answer (requireLength Config.nCw7 len (dec74Response din)))

/-- DEC84: InvalidLength when `len` ≠ 8, else the decode of `din[7:0]` (42_decoders R130, 60_exceptions R150). -/
def execDec84 (len : LenField) (din : Byte) (s : State) : Host.Outcome State Fault Refusal :=
  .next (s.answer (requireLength Config.nCw8 len (dec84Response din)))

/-- DECAUTO on the 7-bit path: "the 7-bit path requires exactly 7", then DEC74 (42_decoders R132, 60_exceptions R150). -/
def execDecauto7 (len : LenField) (din : Byte) (s : State) : Host.Outcome State Fault Refusal :=
  .next (s.answer (requireLength Config.nCw7 len (dec74Response din)))

/-- DECAUTO on the 8-bit path: "the 8-bit path requires exactly 8", then DEC84 (42_decoders R132, 60_exceptions R150). -/
def execDecauto8 (len : LenField) (din : Byte) (s : State) : Host.Outcome State Fault Refusal :=
  .next (s.answer (requireLength Config.nCw8 len (dec84Response din)))

end Sys2Proof.Machine
end

