-- ==== Sys2Proof/Machine/Encoders.lean ====
section
/-! DEFINITION. The meanings of ENC74 and ENC84 (41_encoders R101, R103). -/

namespace Sys2Proof.Machine

/-- ENC74 (41_encoders R101): `zext_8` of the codeword, so `dout[7]` = 0. -/
def enc74Response (d : BitVec 4) : Response := encodeResponse Config.nCw7 ((hamming74Encoder d).setWidth 8)

/-- ENC84 (41_encoders R103). -/
def enc84Response (d : BitVec 4) : Response := encodeResponse Config.nCw8 (hamming84Encoder d)

/-- ENC74: InvalidLength when `len` ≠ 4, else the codeword of `din[3:0]` (41_encoders R101, 60_exceptions R150). -/
def execEnc74 (len : LenField) (din : Byte) (s : State) : Host.Outcome State Fault Refusal :=
  .next (s.answer (requireLength Config.nData len (enc74Response (dataOperand din))))

/-- ENC84: InvalidLength when `len` ≠ 4, else the extended codeword of `din[3:0]` (41_encoders R103, 60_exceptions R150). -/
def execEnc84 (len : LenField) (din : Byte) (s : State) : Host.Outcome State Fault Refusal :=
  .next (s.answer (requireLength Config.nData len (enc84Response (dataOperand din))))

end Sys2Proof.Machine
end

