-- ==== Sys2Proof/Machine/Reserved.lean ====
section
/-! DEFINITION. The meanings of the three reserved codes: each raises InvalidOperation, and `len` and `din` are not
examined (60_exceptions R153, R156). -/

namespace Sys2Proof.Machine

/-- `op` = 101 (60_exceptions R153). -/
def execReserved101 (_len : LenField) (_din : Byte) (s : State) : Host.Outcome State Fault Refusal :=
  .next (s.answer (raiseError .invalidOperation))

/-- `op` = 110 (60_exceptions R153). -/
def execReserved110 (_len : LenField) (_din : Byte) (s : State) : Host.Outcome State Fault Refusal :=
  .next (s.answer (raiseError .invalidOperation))

/-- `op` = 111 (60_exceptions R153). -/
def execReserved111 (_len : LenField) (_din : Byte) (s : State) : Host.Outcome State Fault Refusal :=
  .next (s.answer (raiseError .invalidOperation))

end Sys2Proof.Machine
end

