-- ==== Sys2Proof/Machine/Dispatch.lean ====
section
/-! DEFINITION. One arm per constructor of Instr (30_encoding R66). -/

namespace Sys2Proof.Machine

def exec (i : Instr) (s : State) : Host.Outcome State Fault Refusal :=
  match i with
  | .enc74 len din => Sys2Proof.Machine.execEnc74 len din s
  | .enc84 len din => Sys2Proof.Machine.execEnc84 len din s
  | .dec74 len din => Sys2Proof.Machine.execDec74 len din s
  | .dec84 len din => Sys2Proof.Machine.execDec84 len din s
  | .decauto7 len din => Sys2Proof.Machine.execDecauto7 len din s
  | .decauto8 len din => Sys2Proof.Machine.execDecauto8 len din s
  | .reserved101 len din => Sys2Proof.Machine.execReserved101 len din s
  | .reserved110 len din => Sys2Proof.Machine.execReserved110 len din s
  | .reserved111 len din => Sys2Proof.Machine.execReserved111 len din s

end Sys2Proof.Machine
end

