-- ==== Sys2Proof/Machine/Step.lean ====
section
/-! DEFINITION. One step is one transaction (00_scope R13): the host presents its next command or leaves its inputs as
they are, the core evaluates the command on its ports, and the response stands on the output ports. -/

namespace Sys2Proof.Machine

/-- One transaction. A command the host has not driven or not held long enough faults (70_reset R173, R175); every
other command is decoded and performed in one evaluation (30_encoding R66). -/
def step (s : State) : Host.Outcome State Fault Refusal :=
  match readCommand s.present.inputs with
  | .error f => .fault f
  | .ok c => exec (decode c) s.present

/-- `s` with the command word `w` as the one the host presents next (notes/assumptions/2 says how a program comes to
run). The core fetches nothing (10_state R22); `step` takes its command from the head of `pending`. -/
def State.withFetchWord (s : State) (nbits w : Nat) : State :=
  { s with pending := InputPorts.ofCommand (BitVec.ofNat 15 (w % 2 ^ nbits)) :: s.pending }

end Sys2Proof.Machine
end

