-- ==== Sys2Proof/Machine/HostSide.lean ====
section
/-! DEFINITION. What the spec says the host does at the ports (10_state R35): presenting a vector and its length,
spelling a command in the notation of 30_encoding R70, holding its inputs, and reading a response. No step uses these:
they build a host's commands and read what the core answers. -/

namespace Sys2Proof.Machine

/-! ### Presenting a command -/

/-- A vector in index order `[b0,b1,...]` on an 8-bit bus, padded with 0 above (30_encoding R70, 20_memory R41). -/
def vectorBits (bits : List Bool) : Byte := BitVec.ofFnLE fun i => bits.getD i.val false

/-- The `len` field for a vector of `n` elements: "The host must present a vector longer than 15 elements as
`len = 15`" (30_encoding R62). -/
def saturateLength (n : Nat) : LenField := BitVec.ofNat 4 (min n 15)

/-- A line of the notation of 30_encoding R70: a mnemonic's `op` code, the vector, and the forced length of
`len=<n>` where there is one. -/
structure AsmLine where
  op       : Opcode
  bits     : List Bool
  forceLen : Option Nat
deriving DecidableEq, Repr

/-- The command a line stands for (30_encoding R70). -/
def AsmLine.command (l : AsmLine) : CmdWord :=
  packCommand l.op (saturateLength (l.forceLen.getD l.bits.length)) (vectorBits l.bits)

/-- The pseudo-instruction `ENCODE v, ext`: `ENC74 v` when `ext` is false and `ENC84 v` when it is true (30_encoding
R70). -/
def asmEncode (v : List Bool) (ext : Bool) : AsmLine :=
  { op := if ext then 0b001#3 else 0b000#3, bits := v, forceLen := none }

/-- Inputs the host has held for the time `t` when it samples: settled from `T_SETTLE` on (70_reset R174, R175). -/
def InputPorts.heldFor (p : InputPorts) (t : Nat) : InputPorts :=
  { p with settled := decide (Config.tSettle ≤ t) }

/-- A host that has these commands still to present. -/
def State.withCommands (s : State) (cs : List CmdWord) : State :=
  { s with pending := cs.map InputPorts.ofCommand }

/-! ### Reading a response (70_reset R177) -/

/-- The vector of a response: `err` tested first, then `olen` elements of `dout`. -/
def Response.vector (r : Response) : Option (List Bool) :=
  if r.err = ErrorCode.none.code then some ((List.range r.olen.toNat).map fun i => r.dout.getLsbD i) else none

/-- The error index of a response: `err` tested first, then `eidx` read only when `eidx_v` = 1. -/
def Response.errorIndex (r : Response) : Option Nat :=
  if r.err = ErrorCode.none.code ∧ r.eidxV = true then some r.eidx.toNat else none

/-- The data bits of a codeword, at indices 2, 4, 5, 6: a host-side extraction, the core has no such operation
(91_not_in_source, "Decode-to-data"; 41_encoders R100). -/
def dataOf (codeword : Byte) : BitVec 4 :=
  BitVec.ofFnLE fun
    | 0 => codeword.getLsbD 2
    | 1 => codeword.getLsbD 4
    | 2 => codeword.getLsbD 5
    | 3 => codeword.getLsbD 6

end Sys2Proof.Machine
end

