-- ==== Sys2Proof/Machine/Reference.lean ====
section
/-! DEFINITION. `core(cmd)`: the top-level function of 30_encoding R66 as the spec writes it, from command word to
response. The machine does not use it: statements compare `step`, which goes through `decode` and `exec`, with it. -/

namespace Sys2Proof.Machine

/-- DECAUTO(n, din) (42_decoders R132): the length picks the path, and the path keeps its exact-length precondition
(90_conflicts C4). -/
def decauto (n : Nat) (din : Byte) : Response :=
  if 8 ≤ n then
    if n ≠ 8 then raiseError .invalidLength else dec84Response din
  else
    if n ≠ 7 then raiseError .invalidLength else dec74Response din

/-- `core(cmd[14:0]) -> rsp` (30_encoding R66; 10_state R20: "a function `Cmd → Rsp`"). -/
def hammingCore (cmd : CmdWord) : Response :=
  match cmdOp cmd with
  | 0b000#3 => if (cmdLen cmd).toNat ≠ 4 then raiseError .invalidLength else enc74Response (dataOperand (cmdDin cmd))
  | 0b001#3 => if (cmdLen cmd).toNat ≠ 4 then raiseError .invalidLength else enc84Response (dataOperand (cmdDin cmd))
  | 0b010#3 => if (cmdLen cmd).toNat ≠ 7 then raiseError .invalidLength else dec74Response (cmdDin cmd)
  | 0b011#3 => if (cmdLen cmd).toNat ≠ 8 then raiseError .invalidLength else dec84Response (cmdDin cmd)
  | 0b100#3 => decauto (cmdLen cmd).toNat (cmdDin cmd)
  | 0b101#3 => raiseError .invalidOperation
  | 0b110#3 => raiseError .invalidOperation
  | 0b111#3 => raiseError .invalidOperation

end Sys2Proof.Machine
end

