-- ==== Sys2Proof/Machine/System.lean ====
section
/-! DEFINITION. Several instances of the core (20_memory R46, 60_exceptions R163): "an evaluation in one never affects
another". Each has ports of its own, so a system is a list of machines, each at the outcome its own run has reached. -/

namespace Sys2Proof.Machine

/-- An instance takes a transaction. One that a fault has stopped stays stopped: that a fault ends an instance's run is the
model's choice (DESIGN CHOICE, safe: notes/assumptions/12). -/
def advance : Host.Outcome State Fault Refusal → Host.Outcome State Fault Refusal
  | .next s => step s
  | .fault f => .fault f
  | .refused r => .refused r

/-- Instance `k` takes a transaction and no other instance changes, whether it answers or faults (20_memory R46). That one
instance moves at a time is the model's choice (DESIGN CHOICE, safe: notes/assumptions/13). A number that names no
instance changes nothing. -/
def stepInstance (sys : List (Host.Outcome State Fault Refusal)) (k : Nat) : List (Host.Outcome State Fault Refusal) :=
  sys.modify k advance

/-- The instances take transactions in the order of the schedule `ks`. -/
def runInstances (sys : List (Host.Outcome State Fault Refusal)) (ks : List Nat) :
    List (Host.Outcome State Fault Refusal) :=
  ks.foldl stepInstance sys

end Sys2Proof.Machine
end

