-- ==== Sys2Proof/Safety.lean ====
section
/-! DEFINITION. What a safe run is: wires driven and held, the responses the core can drive, and the invariants of the
ports. -/

namespace Sys2Proof.Machine

/-- The condition under which the core answers one command (70_reset R173, R175): `op` and `len` driven whole, every `din`
bit the operation uses driven, and all of it held for `T_SETTLE`. These are the host's duties of R172 item 1 and R175
at the wires. R172 item 3 (one of the five defined codes) is no part of it: a reserved code is answered with
InvalidOperation (60_exceptions R153). Nor is the truth of `len` (R172 item 2), which the core cannot see. -/
def InputPorts.keepsContract (p : InputPorts) : Bool :=
  p.settled && usedDriven 0b111#3 p.op && usedDriven 0b1111#4 p.len
    && usedDriven (usedDin (wireBits p.op) (wireBits p.len)) p.din

/-- What every response the core drives satisfies, field by field:
`status` is never 11 and `err` never 10 (30_encoding R64, R65); with an error every other field is 0 (60_exceptions
R151); without one `olen` is 7 or 8 (30_encoding R63); bit 7 is 0 when `olen` = 7 (42_decoders R126, 41_encoders R100);
`eidx` is 0 when absent (30_encoding R63); an index is present exactly when the status is Corrected, and Correct carries
syndrome 0 (42_decoders R122, R128); `opv` is 0 in 7-bit mode (42_decoders R122); DoubleErrorDetected needs the 8-bit
mode, a nonzero syndrome and `opv` = 0 (42_decoders R128 case 4); an index is `syndrome - 1`, or 7 with syndrome 0 in
8-bit mode (42_decoders R121). -/
def Response.legal (r : Response) : Bool :=
  r.status != 0b11#2 && r.err != 0b10#2
    && (r.err == 0b00#2 || r == { raiseError .none with err := r.err })
    && (r.err != 0b00#2 || r.olen == 7#4 || r.olen == 8#4)
    && (r.olen != 7#4 || (!r.dout.getLsbD 7 && !r.opv))
    && (r.eidxV || r.eidx == 0#3)
    && (r.eidxV == (r.status == 0b01#2))
    && (r.status != 0b00#2 || r.syndrome == 0#3)
    && (r.status != 0b10#2 || (r.olen == 8#4 && r.syndrome != 0#3 && !r.opv))
    && (!r.eidxV || r.eidx.toNat + 1 == r.syndrome.toNat || (r.eidx == 7#3 && r.syndrome == 0#3 && r.olen == 8#4))

/-- The output ports carry only responses the core can drive. -/
def State.OutputsLegal (s : State) : Prop := ∀ r, s.outputs = .carry r → r.legal = true

/-- What the output ports carry is `core(cmd)` of the command on the input ports (10_state R20, R34). -/
def State.OutputsFollowInputs (s : State) : Prop :=
  ∀ r, s.outputs = .carry r → ∃ c, readCommand s.inputs = .ok c ∧ r = hammingCore c

/-- What the host presents next, now and later, is driven and held: every pending set of inputs, or the inputs on the
wires where none is pending (70_reset R173, R175). -/
def State.InputsDrivenAndHeld (s : State) : Prop :=
  (s.pending = [] → s.inputs.keepsContract = true) ∧ ∀ p ∈ s.pending, p.keepsContract = true

/-- A run that never stops, however long, is a safe run: no response was read that the spec leaves unspecified. -/
def State.RunsSafely (s : State) : Prop := ∀ k, ∃ t, Host.Core.run Sys2Proof.core k s = .next t

end Sys2Proof.Machine
end

