-- ==== Sys2Proof/Certificates/Slice0/Obligations.lean ====
section
/-! DEFINITION. The statements for the provers. Each docstring names the rule of spec/ it formalises. -/

open Sys2Proof Sys2Proof.Machine

/-! ### Encoding and decoding of commands -/

/-- The worked encodings of 30_encoding R71 and a word of each remaining opcode row, written out bit by bit as
`op`, `len`, `din`, stand for their commands. -/
def Obligations.WorkedWordsDecodeToTheirCommands : Prop :=
  decode 0b000010000001101#15 = .enc74 4#4 0x0D#8
    ∧ decode 0b001010000001101#15 = .enc84 4#4 0x0D#8
    ∧ decode 0b010011101100111#15 = .dec74 7#4 0x67#8
    ∧ decode 0b011100001100101#15 = .dec84 8#4 0x65#8
    ∧ decode 0b100011101100111#15 = .decauto7 7#4 0x67#8
    ∧ decode 0b100100001100110#15 = .decauto8 8#4 0x66#8
    ∧ decode 0b101010000001101#15 = .reserved101 4#4 0x0D#8
    ∧ decode 0b110010000001101#15 = .reserved110 4#4 0x0D#8
    ∧ decode 0b111000000000000#15 = .reserved111 0#4 0x00#8

/-- Decode and encode agree: every well-formed command, with every value of `len` and of all eight `din` bits, is what
its word decodes to (30_encoding R60, R61, R67). -/
def Obligations.DecodeOfEncodeIsTheCommand : Prop :=
  ∀ i : Instr, i.wellFormed = true → decode (encode i) = i

/-- The other direction: every one of the 2^15 words decodes to a well-formed command whose word it is, so that no two
words stand for one command (30_encoding R60, R66). -/
def Obligations.EncodeOfDecodeIsTheWord : Prop :=
  ∀ c : CmdWord, (decode c).wellFormed = true ∧ encode (decode c) = c

/-- The command format (30_encoding R60): each field at its place, and the word as a number. -/
def Obligations.CommandWordIsOpLenDin : Prop :=
  ∀ i : Instr,
    (encode i).extractLsb' 12 3 = i.opcode ∧ (encode i).extractLsb' 8 4 = i.lenField
      ∧ (encode i).extractLsb' 0 8 = i.dinField
      ∧ (encode i).toNat = i.opcode.toNat * 4096 + i.lenField.toNat * 256 + i.dinField.toNat

/-- The opcode table (30_encoding R71): a word lies in at most one row, and it decodes to that row's command. -/
def Obligations.OpcodeRowsAreDisjointAndDecodeToTheirCommand : Prop :=
  ∀ (c : CmdWord) (r : OpcodeRow), r ∈ opcodeTable → r.accepts c = true →
    (decode c).rowId = r.rowId ∧ ∀ r' ∈ opcodeTable, r'.accepts c = true → r' = r

/-- "A command with a valid `op` that matches no row has a wrong `len` and raises InvalidLength" (30_encoding R71). -/
def Obligations.ValidOpOutsideEveryRowAnswersInvalidLength : Prop :=
  ∀ (s : State) (c : CmdWord), (cmdOp c).toNat < 5 → (∀ r ∈ opcodeTable, r.accepts c = false) →
    exec (decode c) s = .next { s with outputs := .carry (raiseError .invalidLength) }

/-! ### The step -/

/-- A step runs the decoded command: when the levels on the input ports, after the host's move, are the command word
`c`, the step is `exec (decode c)` there. The host's move presents the head of its pending commands, or leaves the
inputs as they are, and changes no output (10_state R22, R35; 30_encoding R66). -/
def Obligations.StepRunsTheDecodedCommand : Prop :=
  (∀ (s : State) (c : CmdWord), readCommand s.present.inputs = .ok c → step s = exec (decode c) s.present)
    ∧ (∀ s : State, s.pending = [] → s.present = s)
    ∧ (∀ (s : State) (p : InputPorts) (rest : List InputPorts), s.pending = p :: rest →
        s.present = { s with inputs := p, pending := rest })

/-- Bit `i` of a vector is port bit `i` (00_scope R10, 20_memory R41): a host that drives the three ports with a word's
bits, and holds them, has exactly that command run. -/
def Obligations.PresentedCommandIsTheOneRun : Prop :=
  ∀ (s : State) (c : CmdWord) (rest : List InputPorts),
    (∀ i (h : i < 8), (InputPorts.ofCommand c).din[i] = .driven (c.getLsbD i))
      ∧ (∀ i (h : i < 4), (InputPorts.ofCommand c).len[i] = .driven (c.getLsbD (8 + i)))
      ∧ (∀ i (h : i < 3), (InputPorts.ofCommand c).op[i] = .driven (c.getLsbD (12 + i)))
      ∧ step { s with pending := InputPorts.ofCommand c :: rest }
          = exec (decode c) { inputs := InputPorts.ofCommand c, outputs := s.outputs, pending := rest }

/-- The top-level function (30_encoding R66): on every command word the step answers `core(cmd)`, in one evaluation,
and changes nothing but the output ports. `hammingCore` is R66's case split as the spec writes it; the machine goes
through `decode` and the nine meanings. -/
def Obligations.StepIsTheCoreFunction : Prop :=
  ∀ (s : State) (c : CmdWord), readCommand s.present.inputs = .ok c →
    step s = .next { s.present with outputs := .carry (hammingCore c) }

/-- The response is a function of the command alone (10_state R20, R26; 60_exceptions R159): two machines with whatever
history that present the same command answer the same response. -/
def Obligations.ResponseDependsOnTheCommandAlone : Prop :=
  ∀ s₁ s₂ t₁ : State, readCommand s₁.present.inputs = readCommand s₂.present.inputs → step s₁ = .next t₁ →
    ∃ t₂, step s₂ = .next t₂ ∧ t₂.outputs = t₁.outputs

/-- "No output depends on an input bit the operation does not use" (20_memory R43), at the wires: two sets of inputs that
agree but for the levels (bits, unknown or undriven) of `din` wires the operation ignores give the same response. That
an ignored wire may be undriven is the model's reading (DEDUCED, notes/assumptions/6). -/
def Obligations.IgnoredWiresChangeNoOutput : Prop :=
  ∀ (s t : State) (p q : InputPorts) (rest : List InputPorts),
    p.settled = q.settled → p.op = q.op → p.len = q.len →
    (∀ i (h : i < 8), (usedDin (wireBits p.op) (wireBits p.len)).getLsbD i = true → p.din[i] = q.din[i]) →
    step { s with pending := p :: rest } = .next t →
    ∃ t', step { s with pending := q :: rest } = .next t' ∧ t'.outputs = t.outputs ∧ t'.pending = t.pending

/-- "Encode uses `din[3:0]`. A 7-bit decode uses `din[6:0]`. An 8-bit decode uses `din[7:0]`" (20_memory R43), and a
reserved code none: the mask of used bits says so, and two commands that agree on those bits have one effect, whatever
the length field. (That the mask does not ask whether the length is right is the model's reading, DEDUCED,
notes/assumptions/5.) -/
def Obligations.IgnoredDataBitsChangeNothing : Prop :=
  ∀ (len : LenField) (a b : Byte) (s : State),
    (usedDin 0b000#3 len = 0x0F#8 ∧ usedDin 0b001#3 len = 0x0F#8 ∧ usedDin 0b010#3 len = 0x7F#8
        ∧ usedDin 0b011#3 len = 0xFF#8 ∧ usedDin 0b100#3 len = (if 8 ≤ len.toNat then 0xFF#8 else 0x7F#8)
        ∧ usedDin 0b101#3 len = 0x00#8 ∧ usedDin 0b110#3 len = 0x00#8 ∧ usedDin 0b111#3 len = 0x00#8) ∧
    (a.extractLsb' 0 4 = b.extractLsb' 0 4 →
        exec (.enc74 len a) s = exec (.enc74 len b) s ∧ exec (.enc84 len a) s = exec (.enc84 len b) s)
      ∧ (a.extractLsb' 0 7 = b.extractLsb' 0 7 →
        exec (.dec74 len a) s = exec (.dec74 len b) s ∧ exec (.decauto7 len a) s = exec (.decauto7 len b) s)
      ∧ exec (.reserved101 len a) s = exec (.reserved101 len b) s
      ∧ exec (.reserved110 len a) s = exec (.reserved110 len b) s
      ∧ exec (.reserved111 len a) s = exec (.reserved111 len b) s

/-- Undriven inputs (70_reset R173): while any bit of `op` or `len`, or any `din` bit the operation uses, is undriven or
unknown, the evaluation is a fault. -/
def Obligations.UndrivenUsedWireFaults : Prop :=
  ∀ s : State,
    ((∃ i, ∃ h : i < 3, Level.isDriven s.present.inputs.op[i] = false)
      ∨ (∃ i, ∃ h : i < 4, Level.isDriven s.present.inputs.len[i] = false)
      ∨ (∃ i, ∃ h : i < 8,
          (usedDin (wireBits s.present.inputs.op) (wireBits s.present.inputs.len)).getLsbD i = true
            ∧ Level.isDriven s.present.inputs.din[i] = false)) →
    ∃ f, step s = .fault f

/-- Input stability (70_reset R175; 93 entry I4): a response sampled before the inputs were stable for `T_SETTLE` is a
fault, whatever the inputs, and from `T_SETTLE` on every command that is driven whole answers `core(cmd)`. That the
fault is named `sampledBeforeSettle` also where wires are undriven is the model's choice (DESIGN CHOICE,
notes/assumptions/7), and so is time as one bit, `settled` (DESIGN CHOICE, notes/assumptions/8). -/
def Obligations.EarlySampleFaults : Prop :=
  (∀ (s : State) (p : InputPorts) (rest : List InputPorts), p.settled = false →
    step { s with pending := p :: rest } = .fault .sampledBeforeSettle)
    ∧ ∀ (s : State) (c : CmdWord) (rest : List InputPorts) (held : Nat),
        step { s with pending := (InputPorts.ofCommand c).heldFor held :: rest } =
          if Config.tSettle ≤ held then
            .next { inputs := (InputPorts.ofCommand c).heldFor held, outputs := .carry (hammingCore c), pending := rest }
          else .fault .sampledBeforeSettle

/-- When the machine answers: exactly when, after the host's move, `op`, `len` and the used `din` wires are driven and held for
`T_SETTLE` (70_reset R173, R175), which `keepsContract` says; else it faults, and nothing is ever refused. A reserved `op`
is answered too (60_exceptions R153), so the duty of R172 item 3 is no part of the condition. Which wires a
wrong-length command uses is the model's reading (DEDUCED, notes/assumptions/5). -/
def Obligations.StepAnswersExactlyWhenTheHostKeepsItsDuties : Prop :=
  ∀ s : State,
    ((∃ t, step s = .next t) ↔ s.present.inputs.keepsContract = true)
      ∧ ((∃ f, step s = .fault f) ↔ s.present.inputs.keepsContract = false)
      ∧ ∀ r, step s ≠ .refused r

/-- Every command of all nine rows completes in every state, and its frame: the input wires and the host's pending
commands are unchanged, only the output ports change (10_state R20 to R26, 30_encoding R66). -/
def Obligations.EveryCommandCompletesChangingOnlyTheOutputs : Prop :=
  ∀ (i : Instr) (s : State), ∃ r : Response,
    exec i s = .next { inputs := s.inputs, outputs := .carry r, pending := s.pending }

/-- Level inputs (10_state R35, 20_memory R43): while the host changes nothing, a further evaluation leaves the machine
exactly as it is. -/
def Obligations.HeldInputsRepeatTheResponse : Prop :=
  ∀ s t : State, s.pending = [] → step s = .next t → step t = .next t

/-! ### ENC74 and ENC84 -/

/-- ENC74 (41_encoders R100, R101, in the closed form of R102): at `len` = 4 the data bits `din[3:0]` stand at positions 3,
5, 6, 7 in order, positions 1, 2, 4 carry p1, p2, p4, `dout[7]` is 0 and the decode fields have their fixed values; at
any other `len` it raises InvalidLength. Its words are `0x0400 | din[3:0]`. -/
def Obligations.Enc74DrivesTheHammingCodeword : Prop :=
  (∀ (len : LenField) (din : Byte) (s : State),
    exec (.enc74 len din) s = .next { s with outputs := .carry (
      if len = 4#4 then
        { dout := vectorBits
            [ din.getLsbD 0 ^^ din.getLsbD 1 ^^ din.getLsbD 3,
              din.getLsbD 0 ^^ din.getLsbD 2 ^^ din.getLsbD 3,
              din.getLsbD 0,
              din.getLsbD 1 ^^ din.getLsbD 2 ^^ din.getLsbD 3,
              din.getLsbD 1, din.getLsbD 2, din.getLsbD 3, false ]
          olen := 7#4, status := 0b00#2, syndrome := 0#3, opv := false, eidxV := false, eidx := 0#3, err := 0b00#2 }
      else raiseError .invalidLength) })
    ∧ ∀ d : BitVec 4, decode (0x0400#15 ||| d.setWidth 15) = .enc74 4#4 (d.setWidth 8)

/-- ENC84 (41_encoders R103, R104): the ENC74 codeword with its XOR, `d0 ⊕ d1 ⊕ d2`, as index 7, so that the XOR of all
eight bits is 0; at any other `len` InvalidLength. Its words are `0x1400 | din[3:0]`. -/
def Obligations.Enc84DrivesTheExtendedCodeword : Prop :=
  (∀ (len : LenField) (din : Byte) (s : State),
    exec (.enc84 len din) s = .next { s with outputs := .carry (
      if len = 4#4 then
        { dout := vectorBits
            [ din.getLsbD 0 ^^ din.getLsbD 1 ^^ din.getLsbD 3,
              din.getLsbD 0 ^^ din.getLsbD 2 ^^ din.getLsbD 3,
              din.getLsbD 0,
              din.getLsbD 1 ^^ din.getLsbD 2 ^^ din.getLsbD 3,
              din.getLsbD 1, din.getLsbD 2, din.getLsbD 3,
              din.getLsbD 0 ^^ din.getLsbD 1 ^^ din.getLsbD 2 ]
          olen := 8#4, status := 0b00#2, syndrome := 0#3, opv := false, eidxV := false, eidx := 0#3, err := 0b00#2 }
      else raiseError .invalidLength) })
    ∧ (∀ d : BitVec 4, decode (0x1400#15 ||| d.setWidth 15) = .enc84 4#4 (d.setWidth 8))
    ∧ ∀ d : BitVec 4, xorAll (hamming84Encoder d) = false
        ∧ (hamming84Encoder d).getLsbD 7 = xorAll ((hamming84Encoder d).extractLsb' 0 7)

/-! ### DEC74, DEC84 and DECAUTO -/

/-- DEC74 (42_decoders R120, R122, R125, R126): the syndrome of `din[6:0]` is `p4*4 + p2*2 + p1`; a zero syndrome
returns the word unchanged with status Correct, any other flips position `syn` (index `syn - 1`) with status Corrected;
`dout[7]` is 0 and `din[7]` has no part in it. At any `len` but 7 it raises InvalidLength. Its words are
`0x2700 | din[6:0]`. -/
def Obligations.Dec74FlipsTheSyndromePosition : Prop :=
  (∀ (len : LenField) (din : Byte) (s : State),
    let syn : Nat :=
      (din.getLsbD 3 ^^ din.getLsbD 4 ^^ din.getLsbD 5 ^^ din.getLsbD 6).toNat * 4
        + (din.getLsbD 1 ^^ din.getLsbD 2 ^^ din.getLsbD 5 ^^ din.getLsbD 6).toNat * 2
        + (din.getLsbD 0 ^^ din.getLsbD 2 ^^ din.getLsbD 4 ^^ din.getLsbD 6).toNat
    exec (.dec74 len din) s = .next { s with outputs := .carry (
      if len = 7#4 then
        if syn = 0 then
          { dout := vectorBits ((List.range 7).map fun j => din.getLsbD j)
            olen := 7#4, status := 0b00#2, syndrome := 0#3, opv := false, eidxV := false, eidx := 0#3, err := 0b00#2 }
        else
          { dout := vectorBits ((List.range 7).map fun j => din.getLsbD j ^^ decide (j + 1 = syn))
            olen := 7#4, status := 0b01#2, syndrome := BitVec.ofNat 3 syn, opv := false
            eidxV := true, eidx := BitVec.ofNat 3 (syn - 1), err := 0b00#2 }
      else raiseError .invalidLength) })
    ∧ ∀ r : BitVec 7, decode (0x2700#15 ||| r.setWidth 15) = .dec74 7#4 (r.setWidth 8)

/-- DEC84 (42_decoders R120, R127, R128, R130): the four cases over the syndrome of the body `din[6:0]` and the XOR of all
eight bits, which `opv` carries. At any `len` but 8 it raises InvalidLength. Its words are `0x3800 | din`. -/
def Obligations.Dec84FollowsTheFourCases : Prop :=
  (∀ (len : LenField) (din : Byte) (s : State),
    let syn : Nat :=
      (din.getLsbD 3 ^^ din.getLsbD 4 ^^ din.getLsbD 5 ^^ din.getLsbD 6).toNat * 4
        + (din.getLsbD 1 ^^ din.getLsbD 2 ^^ din.getLsbD 5 ^^ din.getLsbD 6).toNat * 2
        + (din.getLsbD 0 ^^ din.getLsbD 2 ^^ din.getLsbD 4 ^^ din.getLsbD 6).toNat
    let x : Bool :=
      din.getLsbD 0 ^^ din.getLsbD 1 ^^ din.getLsbD 2 ^^ din.getLsbD 3 ^^ din.getLsbD 4 ^^ din.getLsbD 5 ^^ din.getLsbD 6
        ^^ din.getLsbD 7
    exec (.dec84 len din) s = .next { s with outputs := .carry (
      if len = 8#4 then
        if syn = 0 ∧ x = false then
          { dout := din, olen := 8#4, status := 0b00#2, syndrome := 0#3, opv := false
            eidxV := false, eidx := 0#3, err := 0b00#2 }
        else if syn ≠ 0 ∧ x = true then
          { dout := vectorBits ((List.range 8).map fun j => din.getLsbD j ^^ decide (j + 1 = syn))
            olen := 8#4, status := 0b01#2, syndrome := BitVec.ofNat 3 syn, opv := true
            eidxV := true, eidx := BitVec.ofNat 3 (syn - 1), err := 0b00#2 }
        else if syn = 0 ∧ x = true then
          { dout := vectorBits ((List.range 8).map fun j => din.getLsbD j ^^ decide (j = 7))
            olen := 8#4, status := 0b01#2, syndrome := 0#3, opv := true
            eidxV := true, eidx := 7#3, err := 0b00#2 }
        else
          { dout := din, olen := 8#4, status := 0b10#2, syndrome := BitVec.ofNat 3 syn, opv := false
            eidxV := false, eidx := 0#3, err := 0b00#2 }
      else raiseError .invalidLength) })
    ∧ ∀ r : Byte, decode (0x3800#15 ||| r.setWidth 15) = .dec84 8#4 r

/-- DECAUTO (42_decoders R132): from length 8 on the 8-bit path, which requires exactly 8 and is then DEC84; below it the
7-bit path, which requires exactly 7 and is then DEC74. -/
def Obligations.DecautoPicksThePathByLength : Prop :=
  (∀ (len : LenField) (din : Byte) (s : State),
    exec (decodeFields 0b100#3 len din) s = .next { s with outputs := .carry (
      if 8 ≤ len.toNat then
        if len.toNat ≠ 8 then raiseError .invalidLength else dec84Response din
      else
        if len.toNat ≠ 7 then raiseError .invalidLength else dec74Response din) })
    ∧ ∀ (din : Byte) (s : State),
        exec (.decauto7 7#4 din) s = .next { s with outputs := .carry (dec74Response din) }
          ∧ exec (.dec74 7#4 din) s = .next { s with outputs := .carry (dec74Response din) }
          ∧ exec (.decauto8 8#4 din) s = .next { s with outputs := .carry (dec84Response din) }
          ∧ exec (.dec84 8#4 din) s = .next { s with outputs := .carry (dec84Response din) }

/-- The output width in 7-bit mode (42_decoders R126): `olen` = 7 and `dout[7]` = 0, and the received `din[7]` reaches
no output. -/
def Obligations.SevenBitModeDrivesSevenBits : Prop :=
  ∀ (din : Byte) (s : State), ∃ r : Response,
    exec (.dec74 7#4 din) s = .next { s with outputs := .carry r }
      ∧ exec (.dec74 7#4 (flipBit din 7)) s = .next { s with outputs := .carry r }
      ∧ exec (.decauto7 7#4 din) s = .next { s with outputs := .carry r }
      ∧ exec (.decauto7 7#4 (flipBit din 7)) s = .next { s with outputs := .carry r }
      ∧ r.olen = 7#4 ∧ r.dout.getLsbD 7 = false

/-! ### Errors -/

/-- InvalidOperation (60_exceptions R151, R153, R156): each reserved code, whatever its length and data, answers `err` = 11
with every other field 0, the word `0x0C0000`. -/
def Obligations.ReservedCodesRaiseInvalidOperation : Prop :=
  (∀ (len : LenField) (din : Byte) (s : State),
    let answer : Response :=
      { dout := 0x00#8, olen := 0#4, status := 0b00#2, syndrome := 0#3, opv := false, eidxV := false, eidx := 0#3
        err := 0b11#2 }
    exec (.reserved101 len din) s = .next { s with outputs := .carry answer }
      ∧ exec (.reserved110 len din) s = .next { s with outputs := .carry answer }
      ∧ exec (.reserved111 len din) s = .next { s with outputs := .carry answer }
      ∧ answer.word = 0x0C0000#24)
    ∧ ∀ (len : LenField) (din : Byte),
        decode (packCommand 0b101#3 len din) = .reserved101 len din
          ∧ decode (packCommand 0b110#3 len din) = .reserved110 len din
          ∧ decode (packCommand 0b111#3 len din) = .reserved111 len din

/-- InvalidLength (60_exceptions R150, R151): each operation, at every length but its own, answers `err` = 01 with every
other field 0, the word `0x040000`. -/
def Obligations.WrongLengthRaisesInvalidLength : Prop :=
  ∀ (len : LenField) (din : Byte) (s : State),
    let answer : Response :=
      { dout := 0x00#8, olen := 0#4, status := 0b00#2, syndrome := 0#3, opv := false, eidxV := false, eidx := 0#3
        err := 0b01#2 }
    (len.toNat ≠ 4 → exec (.enc74 len din) s = .next { s with outputs := .carry answer }
        ∧ exec (.enc84 len din) s = .next { s with outputs := .carry answer })
      ∧ (len.toNat ≠ 7 → exec (.dec74 len din) s = .next { s with outputs := .carry answer })
      ∧ (len.toNat ≠ 8 → exec (.dec84 len din) s = .next { s with outputs := .carry answer })
      ∧ (len.toNat ≠ 7 → len.toNat ≠ 8 →
          exec (decodeFields 0b100#3 len din) s = .next { s with outputs := .carry answer })
      ∧ answer.word = 0x040000#24

/-- Which error a command reports (60_exceptions R156): InvalidOperation for a reserved `op`, whose `len` is not examined;
else InvalidLength for a wrong `len`; else none. InvalidBitValue is never reported (60_exceptions R152). -/
def Obligations.ErrorFieldFollowsThePriority : Prop :=
  ∀ (s : State) (c : CmdWord), readCommand s.present.inputs = .ok c →
    ∃ t r, step s = .next t ∧ t.outputs = .carry r
      ∧ r.err =
          if 5 ≤ (cmdOp c).toNat then 0b11#2
          else if ((cmdOp c).toNat ≤ 1 ∧ (cmdLen c).toNat = 4) ∨ ((cmdOp c).toNat = 2 ∧ (cmdLen c).toNat = 7)
              ∨ ((cmdOp c).toNat = 3 ∧ (cmdLen c).toNat = 8)
              ∨ ((cmdOp c).toNat = 4 ∧ ((cmdLen c).toNat = 7 ∨ (cmdLen c).toNat = 8)) then 0b00#2
          else 0b01#2

/-- DoubleErrorDetected is not an error (60_exceptions R154): whatever command answered it, `err` is 00 and the response
carries the received word, 8 bits, unchanged. Corrected is likewise a success. -/
def Obligations.DoubleErrorIsNoError : Prop :=
  ∀ (s t : State) (c : CmdWord) (r : Response), readCommand s.present.inputs = .ok c → step s = .next t →
    t.outputs = .carry r →
    (r.status = 0b10#2 → r.err = 0b00#2 ∧ r.olen = 8#4 ∧ r.dout = cmdDin c)
      ∧ (r.status = 0b01#2 → r.err = 0b00#2 ∧ r.eidxV = true)

/-- An error is not sticky (60_exceptions R159): after any command, one that raised an error among them, the next command
gets the response it gets without it. -/
def Obligations.ErrorsAreNotSticky : Prop :=
  ∀ (s : State) (bad c : CmdWord),
    ∃ t : State, Host.Core.run Sys2Proof.core 2 (s.withCommands [bad, c]) = .next t
      ∧ Host.Core.run Sys2Proof.core 1 (s.withCommands [c]) = .next t

/-! ### The parity primitive -/

/-- The parity primitive (40_parity_check R90 to R92, R94): the three checks; their product form `H · c`, where column `j` of H,
read as `{p4, p2, p1}`, is the number `j`; linearity, and what it makes of one and of two flips of a word whose parity
is zero; and the zero parity of every codeword. -/
def Obligations.ParityBlockIsTheLinearMapH : Prop :=
  (∀ c : BitVec 7,
    (parityCheckMatrixMult c).p1 = (c.getLsbD 0 ^^ c.getLsbD 2 ^^ c.getLsbD 4 ^^ c.getLsbD 6)
      ∧ (parityCheckMatrixMult c).p2 = (c.getLsbD 1 ^^ c.getLsbD 2 ^^ c.getLsbD 5 ^^ c.getLsbD 6)
      ∧ (parityCheckMatrixMult c).p4 = (c.getLsbD 3 ^^ c.getLsbD 4 ^^ c.getLsbD 5 ^^ c.getLsbD 6)
      ∧ (parityCheckMatrixMult c).s = parityByMatrix c
      ∧ syndromeOf c = (parityCheckMatrixMult c).s.toNat)
    ∧ (∀ j : Fin 7,
        (parityMatrixRow 0).getLsbD j.val = (j.val + 1).testBit 0
          ∧ (parityMatrixRow 1).getLsbD j.val = (j.val + 1).testBit 1
          ∧ (parityMatrixRow 2).getLsbD j.val = (j.val + 1).testBit 2
          ∧ syndromeOf (BitVec.twoPow 7 j.val) = j.val + 1)
    ∧ (∀ a b : BitVec 7,
        (parityCheckMatrixMult (a ^^^ b)).p1 = ((parityCheckMatrixMult a).p1 ^^ (parityCheckMatrixMult b).p1)
          ∧ (parityCheckMatrixMult (a ^^^ b)).p2 = ((parityCheckMatrixMult a).p2 ^^ (parityCheckMatrixMult b).p2)
          ∧ (parityCheckMatrixMult (a ^^^ b)).p4 = ((parityCheckMatrixMult a).p4 ^^ (parityCheckMatrixMult b).p4))
    ∧ (∀ (c : BitVec 7) (j k : Fin 7), syndromeOf c = 0 →
        syndromeOf (flipBit c j.val) = j.val + 1
          ∧ (j ≠ k → syndromeOf (flipBit (flipBit c j.val) k.val) = (j.val + 1) ^^^ (k.val + 1)
              ∧ syndromeOf (flipBit (flipBit c j.val) k.val) ≠ 0))
    ∧ ∀ d : BitVec 4, parityCheckMatrixMult (hamming74Encoder d) = { p1 := false, p2 := false, p4 := false }

/-! ### What the codes guarantee -/

/-- The encoder guarantee (41_encoders R105): what an encode drives, decoded in the matching mode with no noise, is
Correct and unchanged. -/
def Obligations.NoiselessDecodeIsCorrect : Prop :=
  ∀ (din : Byte) (s : State),
    (∃ t r, exec (.enc74 4#4 din) s = .next t ∧ t.outputs = .carry r
      ∧ exec (.dec74 7#4 r.dout) t = .next { t with outputs := .carry (
          { dout := r.dout, olen := 7#4, status := 0b00#2, syndrome := 0#3, opv := false
            eidxV := false, eidx := 0#3, err := 0b00#2 }) })
    ∧ ∃ t r, exec (.enc84 4#4 din) s = .next t ∧ t.outputs = .carry r
      ∧ exec (.dec84 8#4 r.dout) t = .next { t with outputs := .carry (
          { dout := r.dout, olen := 8#4, status := 0b00#2, syndrome := 0#3, opv := false
            eidxV := false, eidx := 0#3, err := 0b00#2 }) }

/-- The single-error guarantee of the 7-bit decoder (42_decoders R123): whichever of the seven bits of a codeword is
flipped, the decode is Corrected, names the index and returns the codeword. -/
def Obligations.Dec74CorrectsEverySingleError : Prop :=
  ∀ (d : BitVec 4) (i : Fin 7) (s : State),
    exec (.dec74 7#4 ((flipBit (hamming74Encoder d) i.val).setWidth 8)) s = .next { s with outputs := .carry (
      { dout := (hamming74Encoder d).setWidth 8, olen := 7#4, status := 0b01#2
        syndrome := BitVec.ofNat 3 (i.val + 1), opv := false
        eidxV := true, eidx := BitVec.ofNat 3 i.val, err := 0b00#2 }) }

/-- Data placement (41_encoders R100): the host that reads positions 3, 5, 6, 7 of what ENC74 or ENC84 drives has the four
data bits it encoded, and it has them too after one flipped bit and the matching decode. -/
def Obligations.DataSurvivesOneFlippedBit : Prop :=
  ∀ (din : Byte) (s : State),
    (∃ r, exec (.enc74 4#4 din) s = .next { s with outputs := .carry r } ∧ dataOf r.dout = din.extractLsb' 0 4
      ∧ ∀ i : Fin 7, ∃ r', exec (.dec74 7#4 (flipBit r.dout i.val)) s = .next { s with outputs := .carry r' }
          ∧ r'.errorIndex = some i.val ∧ dataOf r'.dout = din.extractLsb' 0 4)
    ∧ ∃ r, exec (.enc84 4#4 din) s = .next { s with outputs := .carry r } ∧ dataOf r.dout = din.extractLsb' 0 4
      ∧ ∀ i : Fin 8, ∃ r', exec (.dec84 8#4 (flipBit r.dout i.val)) s = .next { s with outputs := .carry r' }
          ∧ r'.errorIndex = some i.val ∧ dataOf r'.dout = din.extractLsb' 0 4

/-- Two errors in 7-bit mode (42_decoders R124): the output is exactly DEC7, which reports Corrected and flips a third
position, so that the word returned is not the codeword sent. -/
def Obligations.Dec74MiscorrectsEveryDoubleError : Prop :=
  (∀ (din : Byte) (s : State), exec (.dec74 7#4 din) s
      = .next { s with outputs := .carry (decodeResponse 7 (dec7 (din.extractLsb' 0 7))) })
    ∧ ∀ (d : BitVec 4) (i j : Fin 7) (s : State), i ≠ j →
      ∃ k : Fin 7, k ≠ i ∧ k ≠ j ∧ k.val + 1 = (i.val + 1) ^^^ (j.val + 1)
        ∧ flipBit (flipBit (flipBit (hamming74Encoder d) i.val) j.val) k.val ≠ hamming74Encoder d
        ∧ exec (.dec74 7#4 ((flipBit (flipBit (hamming74Encoder d) i.val) j.val).setWidth 8)) s
          = .next { s with outputs := .carry (
            { dout := (flipBit (flipBit (flipBit (hamming74Encoder d) i.val) j.val) k.val).setWidth 8
              olen := 7#4, status := 0b01#2, syndrome := BitVec.ofNat 3 (k.val + 1), opv := false
              eidxV := true, eidx := BitVec.ofNat 3 k.val, err := 0b00#2 }) }

/-- SECDED (42_decoders R131): for every extended codeword, no error is Correct; one error at any of the eight indices is
Corrected, named and undone; two errors at any of the 28 pairs, those with the overall parity bit among them
(90_conflicts C2), are DoubleErrorDetected with the word unchanged; and on every word, whatever the number of errors,
the output is exactly DEC8. -/
def Obligations.Dec84IsSecded : Prop :=
  (∀ (din : Byte) (s : State), exec (.dec84 8#4 din) s
      = .next { s with outputs := .carry (decodeResponse 8 (dec8 din)) })
    ∧ ∀ (d : BitVec 4) (s : State),
      exec (.dec84 8#4 (hamming84Encoder d)) s = .next { s with outputs := .carry (
          { dout := hamming84Encoder d, olen := 8#4, status := 0b00#2, syndrome := 0#3, opv := false
            eidxV := false, eidx := 0#3, err := 0b00#2 }) }
      ∧ (∀ i : Fin 8, exec (.dec84 8#4 (flipBit (hamming84Encoder d) i.val)) s = .next { s with outputs := .carry (
          { dout := hamming84Encoder d, olen := 8#4, status := 0b01#2
            syndrome := if i.val = 7 then 0#3 else BitVec.ofNat 3 (i.val + 1), opv := true
            eidxV := true, eidx := BitVec.ofNat 3 i.val, err := 0b00#2 }) })
      ∧ ∀ i j : Fin 8, i < j →
          exec (.dec84 8#4 (flipBit (flipBit (hamming84Encoder d) i.val) j.val)) s = .next { s with outputs := .carry (
            { dout := flipBit (flipBit (hamming84Encoder d) i.val) j.val, olen := 8#4, status := 0b10#2
              syndrome := if j.val = 7 then BitVec.ofNat 3 (i.val + 1)
                else BitVec.ofNat 3 ((i.val + 1) ^^^ (j.val + 1))
              opv := false, eidxV := false, eidx := 0#3, err := 0b00#2 }) }
          ∧ (if j.val = 7 then BitVec.ofNat 3 (i.val + 1) else BitVec.ofNat 3 ((i.val + 1) ^^^ (j.val + 1))) ≠ 0#3

/-! ### Invariants and runs -/

/-- Every step drives only responses the core can drive: `status` is never 11 and `err` never 10, an error carries nothing
else, and the fields agree with one another as `Response.legal` lists them (30_encoding R63, R64, R65, R69;
60_exceptions R151; 42_decoders R121, R122, R126, R128). -/
def Obligations.StepKeepsOutputsLegal : Prop :=
  ∀ s t : State, s.OutputsLegal → step s = .next t → t.OutputsLegal

/-- After reset the output ports carry nothing illegal: no output is specified yet (70_reset R170). -/
def Obligations.ResetOutputsAreLegal : Prop := State.reset.OutputsLegal

/-- Every step leaves on the output ports `core(cmd)` of the command on the input ports (10_state R20, R34). -/
def Obligations.StepKeepsOutputsFollowingInputs : Prop :=
  ∀ s t : State, s.OutputsFollowInputs → step s = .next t →
    t.OutputsFollowInputs ∧ t.outputs ≠ .unspecified

/-- After reset the output ports contradict no command: no output is specified yet (70_reset R170). -/
def Obligations.ResetOutputsFollowInputs : Prop := State.reset.OutputsFollowInputs

/-- Every step keeps the host's inputs driven and held (70_reset R173, R175): from every state in which what the host
presents next, now and later, is so, the step answers, and in the state it answers that is so again. -/
def Obligations.StepKeepsInputsDrivenAndHeld : Prop :=
  ∀ s : State, s.InputsDrivenAndHeld →
    (∃ t, step s = .next t) ∧ ∀ t, step s = .next t → t.InputsDrivenAndHeld

/-- A host's list of commands (10_state R22, R35; 70_reset R176): from any state, as many steps as there are commands
present them all in order, and the machine then carries the response of the last one, whatever went before it. -/
def Obligations.CommandListRunsToTheLastResponse : Prop :=
  ∀ (cs : List CmdWord) (c : CmdWord) (s : State),
    Host.Core.run Sys2Proof.core (cs.length + 1) (s.withCommands (cs ++ [c]))
      = .next { inputs := InputPorts.ofCommand c, outputs := .carry (hammingCore c), pending := [] }

/-- A host whose wires are driven and held (70_reset R173, R175), for every set of inputs it has still to present, or for the
inputs it drives where it has none, never sees a step stop. -/
def Obligations.HostKeepingItsDutiesRunsSafely : Prop :=
  ∀ s : State, (s.pending = [] → s.inputs.keepsContract = true) → (∀ p ∈ s.pending, p.keepsContract = true) →
    s.RunsSafely

/-- Reset elsewhere in a system has no effect on the core's function (70_reset R171): the first command after reset gives
the response it gives in any other state. -/
def Obligations.FirstCommandAfterResetAnswersAsAnyOther : Prop :=
  ∀ (c : CmdWord) (s : State),
    ∃ t t', step (State.reset.withFetchWord 16 c.toNat) = .next t ∧ step (s.withFetchWord 16 c.toNat) = .next t'
      ∧ t.outputs = t'.outputs ∧ t.outputs = .carry (hammingCore c)

/-- Separate instances are independent (20_memory R46, 60_exceptions R163). A transaction of instance `k` changes no other
instance, whether it answers or faults; and after any schedule of transactions each instance stands where its own run
of its own transactions takes it, whatever the others did. That one instance moves at a time, and that a faulted one
stays stopped, are the model's choices (DESIGN CHOICE, notes/assumptions/13 and 12). -/
def Obligations.InstancesAreIndependent : Prop :=
  (∀ (sys : List (Host.Outcome State Fault Refusal)) (k j : Nat),
    (stepInstance sys k).length = sys.length
      ∧ (j ≠ k → (stepInstance sys k)[j]? = sys[j]?)
      ∧ (stepInstance sys k)[k]? = sys[k]?.map advance)
    ∧ ∀ (sys : List State) (ks : List Nat) (j : Nat),
        (runInstances (sys.map .next) ks)[j]? = sys[j]?.map (Host.Core.run Sys2Proof.core (ks.count j))

/-! ### The response word and the host's side -/

/-- The response format (30_encoding R63): each field at its place in the word. -/
def Obligations.ResponseWordHoldsEveryField : Prop :=
  ∀ r : Response,
    r.word.extractLsb' 0 8 = r.dout ∧ r.word.extractLsb' 8 2 = r.status ∧ r.word.extractLsb' 10 3 = r.syndrome
      ∧ r.word.getLsbD 13 = r.opv ∧ r.word.getLsbD 14 = r.eidxV ∧ r.word.extractLsb' 15 3 = r.eidx
      ∧ r.word.extractLsb' 18 2 = r.err ∧ r.word.extractLsb' 20 4 = r.olen

/-- A response word is read back as its response, and a word with `status` = 11 or `err` = 10 is refused (30_encoding R64,
R65; 93 entry I6). -/
def Obligations.ResponseWordReadsBack : Prop :=
  ∀ r : Response,
    (r.status ≠ 0b11#2 → r.err ≠ 0b10#2 → Response.ofWord r.word = some r)
      ∧ (r.status = 0b11#2 ∨ r.err = 0b10#2 → Response.ofWord r.word = none)

/-- The `len` field of a vector (30_encoding R62): its length up to 15, and 15 beyond; and every length above 8, saturated
or not, gets InvalidLength from every operation. -/
def Obligations.LongVectorsGetInvalidLength : Prop :=
  ∀ n : Nat,
    (n ≤ 15 → (saturateLength n).toNat = n) ∧ (15 < n → (saturateLength n).toNat = 15)
      ∧ (8 < n → ∀ (op : Opcode) (din : Byte) (s : State), op.toNat < 5 →
          exec (decodeFields op (saturateLength n) din) s
            = .next { s with outputs := .carry (raiseError .invalidLength) })

/-- The notation of 30_encoding R70: each line is the command its mnemonic names, with the vector's length and its bits in
index order, padded with 0 above; a DECAUTO line takes the length of its list, whatever it is; `len=<n>` forces the
length; ENCODE is ENC74 or ENC84. For a vector of more than eight elements, that its first eight stand on `din` and its
length is saturated at 15 is the model's choice (DESIGN CHOICE, notes/assumptions/15). -/
def Obligations.NotationLinesAreTheirCommands : Prop :=
  (∀ bits : List Bool, bits.length = 4 →
      decode (AsmLine.command ⟨0b000#3, bits, none⟩) = .enc74 4#4 (vectorBits bits)
        ∧ decode (AsmLine.command ⟨0b001#3, bits, none⟩) = .enc84 4#4 (vectorBits bits)
        ∧ decode (asmEncode bits false).command = .enc74 4#4 (vectorBits bits)
        ∧ decode (asmEncode bits true).command = .enc84 4#4 (vectorBits bits))
    ∧ (∀ bits : List Bool, bits.length = 7 →
        decode (AsmLine.command ⟨0b010#3, bits, none⟩) = .dec74 7#4 (vectorBits bits)
          ∧ decode (AsmLine.command ⟨0b100#3, bits, none⟩) = .decauto7 7#4 (vectorBits bits))
    ∧ (∀ bits : List Bool, bits.length = 8 →
        decode (AsmLine.command ⟨0b011#3, bits, none⟩) = .dec84 8#4 (vectorBits bits)
          ∧ decode (AsmLine.command ⟨0b100#3, bits, none⟩) = .decauto8 8#4 (vectorBits bits))
    ∧ (∀ bits : List Bool,
        (bits.length ≤ 15 → decode (AsmLine.command ⟨0b100#3, bits, none⟩)
            = decodeFields 0b100#3 (BitVec.ofNat 4 bits.length) (vectorBits bits))
          ∧ (15 < bits.length → decode (AsmLine.command ⟨0b100#3, bits, none⟩)
            = decodeFields 0b100#3 15#4 (vectorBits bits)))
    ∧ (∀ (op : Opcode) (bits : List Bool) (n : Nat), n ≤ 15 →
        decode (AsmLine.command ⟨op, bits, some n⟩) = decodeFields op (BitVec.ofNat 4 n) (vectorBits bits))
    ∧ ∀ (bits : List Bool) (i : Nat), i < 8 → (vectorBits bits).getLsbD i = bits.getD i false
end

