-- ==== Sys2Proof/Laws/Encoding.lean ====
section
/-! SUPPORT. The fields of a packed command word, and the word of its fields (30_encoding R60). -/

namespace Sys2Proof

@[simp] theorem cmdOp_packCommand (op : Opcode) (len : LenField) (din : Byte) :
    cmdOp (packCommand op len din) = op := by
  apply BitVec.eq_of_getLsbD_eq
  intro i hi
  simp only [cmdOp, packCommand, BitVec.getLsbD_extractLsb', BitVec.getLsbD_append]
  have h1 : ¬ 12 + i < 4 + 8 := by omega
  have h2 : 12 + i - (4 + 8) = i := by omega
  simp [hi, h1, h2]

@[simp] theorem cmdLen_packCommand (op : Opcode) (len : LenField) (din : Byte) :
    cmdLen (packCommand op len din) = len := by
  apply BitVec.eq_of_getLsbD_eq
  intro i hi
  simp only [cmdLen, packCommand, BitVec.getLsbD_extractLsb', BitVec.getLsbD_append]
  have h1 : 8 + i < 4 + 8 := by omega
  have h2 : ¬ 8 + i < 8 := by omega
  have h3 : 8 + i - 8 = i := by omega
  simp [hi, h1, h3]

@[simp] theorem cmdDin_packCommand (op : Opcode) (len : LenField) (din : Byte) :
    cmdDin (packCommand op len din) = din := by
  apply BitVec.eq_of_getLsbD_eq
  intro i hi
  simp only [cmdDin, packCommand, BitVec.getLsbD_extractLsb', BitVec.getLsbD_append]
  have h1 : i < 4 + 8 := by omega
  simp only [Nat.zero_add, hi, h1, if_true, decide_true, Bool.true_and]

@[simp] theorem packCommand_fields (c : CmdWord) : packCommand (cmdOp c) (cmdLen c) (cmdDin c) = c := by
  apply BitVec.eq_of_getLsbD_eq
  intro i hi
  simp only [cmdOp, cmdLen, cmdDin, packCommand, BitVec.getLsbD_extractLsb', BitVec.getLsbD_append]
  by_cases h1 : i < 8
  · have : i < 4 + 8 := by omega
    simp [h1, this]
  · by_cases h2 : i < 4 + 8
    · have h3 : i - 8 < 4 := by omega
      have h4 : 8 + (i - 8) = i := by omega
      simp [h1, h2, h3, h4]
    · have h3 : i - (4 + 8) < 3 := by omega
      have h4 : 12 + (i - (4 + 8)) = i := by omega
      simp only [h2, h3, h4]; simp

/-- The decoder of a packed word reads its fields. -/
@[simp] theorem decode_packCommand (op : Opcode) (len : LenField) (din : Byte) :
    decode (packCommand op len din) = decodeFields op len din := by
  simp [decode]

theorem decodeTableWord_of_lt (w : Nat) (h : w < 2 ^ 15) : decodeTableWord 16 w = some (decode (BitVec.ofNat 15 w)) := by
  have h1 : w % 2 ^ 16 = w := Nat.mod_eq_of_lt (by omega)
  simp only [decodeTableWord, decodeNat, h1, h, if_true]

end Sys2Proof
end

