-- ==== Sys2Proof/Laws/State.lean ====
section
/-! SUPPORT. One lemma per field per update of the state, so that no proof unfolds a record update. -/

namespace Sys2Proof.Machine

/-! ### `answer` -/

@[simp] theorem answer_inputs (s : State) (r : Response) : (s.answer r).inputs = s.inputs := rfl
@[simp] theorem answer_outputs (s : State) (r : Response) : (s.answer r).outputs = .carry r := rfl
@[simp] theorem answer_pending (s : State) (r : Response) : (s.answer r).pending = s.pending := rfl

/-- An answer replaces the one before it: the output ports hold no history (10_state R20). -/
@[simp] theorem answer_answer (s : State) (r r' : Response) : (s.answer r).answer r' = s.answer r' := rfl

/-! ### `present` -/

theorem present_of_nil (s : State) (h : s.pending = []) : s.present = s := by
  simp [State.present, h]

theorem present_of_cons (s : State) (p : InputPorts) (rest : List InputPorts) (h : s.pending = p :: rest) :
    s.present = { s with inputs := p, pending := rest } := by
  simp [State.present, h]

/-- The host's move changes no output. -/
@[simp] theorem present_outputs (s : State) : s.present.outputs = s.outputs := by
  unfold State.present; split <;> rfl

@[simp] theorem present_pending (s : State) : s.present.pending = s.pending.tail := by
  unfold State.present; split <;> simp [*]

/-- The inputs after the host's move: the head of its commands, or the inputs as they stand. -/
@[simp] theorem present_inputs (s : State) : s.present.inputs = s.pending.headD s.inputs := by
  unfold State.present; split <;> simp [*]

/-! ### `withFetchWord` and `withCommands` -/

@[simp] theorem withFetchWord_inputs (s : State) (n w : Nat) : (s.withFetchWord n w).inputs = s.inputs := rfl
@[simp] theorem withFetchWord_outputs (s : State) (n w : Nat) : (s.withFetchWord n w).outputs = s.outputs := rfl
@[simp] theorem withFetchWord_pending (s : State) (n w : Nat) :
    (s.withFetchWord n w).pending = InputPorts.ofCommand (BitVec.ofNat 15 (w % 2 ^ n)) :: s.pending := rfl

@[simp] theorem withCommands_inputs (s : State) (cs : List CmdWord) : (s.withCommands cs).inputs = s.inputs := rfl
@[simp] theorem withCommands_outputs (s : State) (cs : List CmdWord) : (s.withCommands cs).outputs = s.outputs := rfl
@[simp] theorem withCommands_pending (s : State) (cs : List CmdWord) :
    (s.withCommands cs).pending = cs.map InputPorts.ofCommand := rfl

/-! ### The ports -/

@[simp] theorem ofCommand_op (c : CmdWord) : (InputPorts.ofCommand c).op = driveWires (cmdOp c) := rfl
@[simp] theorem ofCommand_len (c : CmdWord) : (InputPorts.ofCommand c).len = driveWires (cmdLen c) := rfl
@[simp] theorem ofCommand_din (c : CmdWord) : (InputPorts.ofCommand c).din = driveWires (cmdDin c) := rfl
@[simp] theorem ofCommand_settled (c : CmdWord) : (InputPorts.ofCommand c).settled = true := rfl

@[simp] theorem heldFor_op (p : InputPorts) (t : Nat) : (p.heldFor t).op = p.op := rfl
@[simp] theorem heldFor_len (p : InputPorts) (t : Nat) : (p.heldFor t).len = p.len := rfl
@[simp] theorem heldFor_din (p : InputPorts) (t : Nat) : (p.heldFor t).din = p.din := rfl
@[simp] theorem heldFor_settled (p : InputPorts) (t : Nat) : (p.heldFor t).settled = decide (Config.tSettle ≤ t) := rfl

end Sys2Proof.Machine
end

