-- ==== Sys2Proof/Laws/Operands.lean ====
section
/-! SUPPORT. Levels and bits: what reading wires gives, and what reading the command gives. -/

namespace Sys2Proof.Machine

/-! ### Wires -/

@[simp] theorem driveWires_getElem {n : Nat} (v : BitVec n) (i : Nat) (h : i < n) :
    (driveWires v)[i] = Level.driven v[i] := by
  simp [driveWires]

@[simp] theorem wireBits_getElem {n : Nat} (w : Wires n) (i : Nat) (h : i < n) :
    (wireBits w)[i] = Level.bit w[i] := by
  simp [wireBits]

@[simp] theorem wireBits_driveWires {n : Nat} (v : BitVec n) : wireBits (driveWires v) = v := by
  ext i hi
  simp [Level.bit]

/-- Which wires must be driven. -/
theorem usedDriven_iff {n : Nat} (used : BitVec n) (w : Wires n) :
    usedDriven used w = true ↔ ∀ (i : Nat) (h : i < n), used.getLsbD i = true → Level.isDriven w[i] = true := by
  simp only [usedDriven, List.all_eq_true, List.mem_finRange, forall_const, Bool.or_eq_true, Bool.not_eq_true']
  constructor
  · intro hall i h hu
    rcases hall ⟨i, h⟩ with hf | ht
    · simp [hu] at hf
    · exact ht
  · intro hall i
    cases hu : used.getLsbD i.val
    · exact .inl rfl
    · exact .inr (hall i.val i.isLt hu)

@[simp] theorem usedDriven_driveWires {n : Nat} (used v : BitVec n) : usedDriven used (driveWires v) = true := by
  rw [usedDriven_iff]
  intro i h _
  simp [Level.isDriven]

@[simp] theorem readWires_driveWires {n : Nat} (used v : BitVec n) : readWires used (driveWires v) = some v := by
  simp [readWires]

/-- Everything `readWires` can do. -/
theorem readWires_eq_some {n : Nat} {used : BitVec n} {w : Wires n} {v : BitVec n} :
    readWires used w = some v ↔ usedDriven used w = true ∧ v = wireBits w := by
  unfold readWires
  split
  · rename_i h; simp [h, eq_comm]
  · rename_i h; simp [h]

/-! ### The command -/

/-- A host that drives a command word whole, and holds it, is read as that command. -/
@[simp] theorem readCommand_ofCommand (c : CmdWord) : readCommand (InputPorts.ofCommand c) = .ok c := by
  simp [readCommand]

/-- Everything `readCommand` can answer with a command. -/
theorem readCommand_eq_ok {p : InputPorts} {c : CmdWord} (h : readCommand p = .ok c) :
    p.settled = true ∧ usedDriven 0b111#3 p.op = true ∧ usedDriven 0b1111#4 p.len = true
      ∧ usedDriven (usedDin (wireBits p.op) (wireBits p.len)) p.din = true
      ∧ c = packCommand (wireBits p.op) (wireBits p.len) (wireBits p.din) := by
  unfold readCommand at h
  split at h
  · rename_i hs
    split at h
    · cases h
    · rename_i op hop
      split at h
      · cases h
      · rename_i len hlen
        split at h
        · cases h
        · rename_i din hdin
          obtain ⟨ho, rfl⟩ := readWires_eq_some.mp hop
          obtain ⟨hl, rfl⟩ := readWires_eq_some.mp hlen
          obtain ⟨hd, rfl⟩ := readWires_eq_some.mp hdin
          cases h
          exact ⟨hs, ho, hl, hd, rfl⟩
  · cases h

/-- A host that keeps its duties is read as the command on its wires. -/
theorem readCommand_of_keepsContract {p : InputPorts} (h : p.keepsContract = true) :
    readCommand p = .ok (packCommand (wireBits p.op) (wireBits p.len) (wireBits p.din)) := by
  simp only [InputPorts.keepsContract, Bool.and_eq_true] at h
  obtain ⟨⟨⟨hs, ho⟩, hl⟩, hd⟩ := h
  simp [readCommand, readWires, hs, ho, hl, hd]

/-! ### Operands -/

@[simp] theorem dataOperand_getLsbD (din : Byte) (i : Nat) :
    (dataOperand din).getLsbD i = (decide (i < 4) && din.getLsbD i) := by
  simp [dataOperand]

@[simp] theorem bodyOperand_getLsbD (din : Byte) (i : Nat) :
    (bodyOperand din).getLsbD i = (decide (i < 7) && din.getLsbD i) := by
  simp [bodyOperand]

/-- `flip` inverts index `i` and leaves every other element (00_scope R12). -/
@[simp] theorem flipBit_getElem {n : Nat} (v : BitVec n) (i j : Nat) (hj : j < n) :
    (flipBit v i)[j] = (v[j] ^^ decide (j = i)) := by
  simp [flipBit, BitVec.getElem_twoPow]

end Sys2Proof.Machine
end

