-- ==== Sys2Proof/Laws/Ops.lean ====
section
/-! SUPPORT. One lemma for each shared operation: what it answers, case by case. -/

namespace Sys2Proof.Machine

/-! ### Errors -/

theorem requireLength_of_eq {required : Nat} {len : LenField} (h : len.toNat = required) (r : Response) :
    requireLength required len r = r := by
  simp [requireLength, h]

theorem requireLength_of_ne {required : Nat} {len : LenField} (h : len.toNat ≠ required) (r : Response) :
    requireLength required len r = raiseError .invalidLength := by
  simp [requireLength, h]

/-! ### The status computations -/

theorem xorAll_seven (v : BitVec 7) :
    xorAll v = (v.getLsbD 0 ^^ v.getLsbD 1 ^^ v.getLsbD 2 ^^ v.getLsbD 3 ^^ v.getLsbD 4 ^^ v.getLsbD 5 ^^ v.getLsbD 6) := by
  simp [xorAll, List.range, List.range.loop]

theorem overallXor_bits (r : Byte) :
    overallXor r = (r.getLsbD 0 ^^ r.getLsbD 1 ^^ r.getLsbD 2 ^^ r.getLsbD 3 ^^ r.getLsbD 4 ^^ r.getLsbD 5 ^^ r.getLsbD 6
      ^^ r.getLsbD 7) := by
  simp [overallXor, xorAll, List.range, List.range.loop]

/-- The syndrome fits its three bits (42_decoders R121). -/
theorem syndromeOf_lt (c : BitVec 7) : syndromeOf c < 8 := by
  have hb : ∀ b : Bool, b.toNat ≤ 1 := Bool.toNat_le
  have h1 := hb (parityCheckMatrixMult c).p1
  have h2 := hb (parityCheckMatrixMult c).p2
  have h4 := hb (parityCheckMatrixMult c).p4
  unfold syndromeOf; omega

/-! ### The decoder, case by case (42_decoders R122, R128, R129) -/

theorem dec7_of_zero {r : BitVec 7} (h : syndromeOf r = 0) :
    dec7 r = { corr := r.setWidth 8, status := .correct, syndrome := 0#3, opv := false, errorIndex := none } := by
  simp [dec7, h]

theorem dec7_of_ne_zero {r : BitVec 7} (h : syndromeOf r ≠ 0) :
    dec7 r = { corr := (flipBit r (syndromeOf r - 1)).setWidth 8, status := .corrected,
               syndrome := BitVec.ofNat 3 (syndromeOf r), opv := false,
               errorIndex := some (BitVec.ofNat 3 (syndromeOf r - 1)) } := by
  simp [dec7, h]

theorem dec8_case1 {r : Byte} (h : syndromeOf (bodyOperand r) = 0) (hx : overallXor r = false) :
    dec8 r = { corr := r, status := .correct, syndrome := 0#3, opv := false, errorIndex := none } := by
  simp [dec8, h, hx]

theorem dec8_case2 {r : Byte} (h : syndromeOf (bodyOperand r) ≠ 0) (hx : overallXor r = true) :
    dec8 r = { corr := flipBit r (syndromeOf (bodyOperand r) - 1), status := .corrected,
               syndrome := BitVec.ofNat 3 (syndromeOf (bodyOperand r)), opv := true,
               errorIndex := some (BitVec.ofNat 3 (syndromeOf (bodyOperand r) - 1)) } := by
  simp [dec8, h, hx]

theorem dec8_case3 {r : Byte} (h : syndromeOf (bodyOperand r) = 0) (hx : overallXor r = true) :
    dec8 r = { corr := flipBit r 7, status := .corrected, syndrome := 0#3, opv := true, errorIndex := some 7#3 } := by
  simp [dec8, h, hx]

theorem dec8_case4 {r : Byte} (h : syndromeOf (bodyOperand r) ≠ 0) (hx : overallXor r = false) :
    dec8 r = { corr := r, status := .doubleErrorDetected, syndrome := BitVec.ofNat 3 (syndromeOf (bodyOperand r)),
               opv := false, errorIndex := none } := by
  simp [dec8, h, hx]

@[simp] theorem decoder_ext_off (r : Byte) : hammingSyndromeDecoder r false = dec7 (bodyOperand r) := rfl
@[simp] theorem decoder_ext_on (r : Byte) : hammingSyndromeDecoder r true = dec8 r := rfl

end Sys2Proof.Machine
end

