-- ==== Sys2Proof/Laws/PerInstr.lean ====
section
/-! SUPPORT. One lemma per constructor of `Instr`: where its encoding puts its operation code, its length and its
vector (30_encoding R60). -/

namespace Sys2Proof.Laws.EncodesFields

/-- The three fields of the encoded word are the instruction's. -/
def Statement (i : Instr) : Prop :=
  cmdOp (encode i) = i.opcode ∧ cmdLen (encode i) = i.lenField ∧ cmdDin (encode i) = i.dinField

theorem of_pack (i : Instr) : Statement i := by simp [Statement, encode]

theorem enc74 (len : LenField) (din : Byte) : Statement (.enc74 len din) := of_pack _
theorem enc84 (len : LenField) (din : Byte) : Statement (.enc84 len din) := of_pack _
theorem dec74 (len : LenField) (din : Byte) : Statement (.dec74 len din) := of_pack _
theorem dec84 (len : LenField) (din : Byte) : Statement (.dec84 len din) := of_pack _
theorem decauto7 (len : LenField) (din : Byte) : Statement (.decauto7 len din) := of_pack _
theorem decauto8 (len : LenField) (din : Byte) : Statement (.decauto8 len din) := of_pack _
theorem reserved101 (len : LenField) (din : Byte) : Statement (.reserved101 len din) := of_pack _
theorem reserved110 (len : LenField) (din : Byte) : Statement (.reserved110 len din) := of_pack _
theorem reserved111 (len : LenField) (din : Byte) : Statement (.reserved111 len din) := of_pack _

end Sys2Proof.Laws.EncodesFields
end

