-- ==== Sys2Proof/Laws/Step.lean ====
section
/-! SUPPORT. What each arm of `exec` answers and what a step can do. -/

namespace Sys2Proof.Machine

/-! ### The arms -/

@[simp] theorem exec_enc74 (len : LenField) (din : Byte) (s : State) : exec (.enc74 len din) s
    = .next (s.answer (requireLength 4 len (enc74Response (dataOperand din)))) := rfl
@[simp] theorem exec_enc84 (len : LenField) (din : Byte) (s : State) : exec (.enc84 len din) s
    = .next (s.answer (requireLength 4 len (enc84Response (dataOperand din)))) := rfl
@[simp] theorem exec_dec74 (len : LenField) (din : Byte) (s : State) : exec (.dec74 len din) s
    = .next (s.answer (requireLength 7 len (dec74Response din))) := rfl
@[simp] theorem exec_dec84 (len : LenField) (din : Byte) (s : State) : exec (.dec84 len din) s
    = .next (s.answer (requireLength 8 len (dec84Response din))) := rfl
@[simp] theorem exec_decauto7 (len : LenField) (din : Byte) (s : State) : exec (.decauto7 len din) s
    = .next (s.answer (requireLength 7 len (dec74Response din))) := rfl
@[simp] theorem exec_decauto8 (len : LenField) (din : Byte) (s : State) : exec (.decauto8 len din) s
    = .next (s.answer (requireLength 8 len (dec84Response din))) := rfl
@[simp] theorem exec_reserved101 (len : LenField) (din : Byte) (s : State) : exec (.reserved101 len din) s
    = .next (s.answer (raiseError .invalidOperation)) := rfl
@[simp] theorem exec_reserved110 (len : LenField) (din : Byte) (s : State) : exec (.reserved110 len din) s
    = .next (s.answer (raiseError .invalidOperation)) := rfl
@[simp] theorem exec_reserved111 (len : LenField) (din : Byte) (s : State) : exec (.reserved111 len din) s
    = .next (s.answer (raiseError .invalidOperation)) := rfl

/-! ### The step -/

theorem step_of_command {s : State} {c : CmdWord} (h : readCommand s.present.inputs = .ok c) :
    step s = exec (decode c) s.present := by
  simp only [step, h]

theorem step_of_fault {s : State} {f : Fault} (h : readCommand s.present.inputs = .error f) : step s = .fault f := by
  simp only [step, h]

/-- Everything a step that answers a next state has done: it read a command and performed it. -/
theorem step_next {s t : State} (h : step s = .next t) :
    ∃ c, readCommand s.present.inputs = .ok c ∧ exec (decode c) s.present = .next t := by
  unfold step at h
  split at h
  · cases h
  · exact ⟨_, ‹_›, h⟩

/-! ### Runs -/

@[simp] theorem run_zero (s : State) : Host.Core.run Sys2Proof.core 0 s = .next s := rfl

/-- One step, then the rest of the run. -/
theorem run_succ_of_next {s t : State} (k : Nat) (h : step s = .next t) :
    Host.Core.run Sys2Proof.core (k + 1) s = Host.Core.run Sys2Proof.core k t := by
  have h' : Sys2Proof.core.step s = .next t := h
  simp only [Host.Core.run, h']

/-- A run stops at the first fault. -/
theorem run_succ_of_fault {s : State} {f : Fault} (k : Nat) (h : step s = .fault f) :
    Host.Core.run Sys2Proof.core (k + 1) s = .fault f := by
  have h' : Sys2Proof.core.step s = .fault f := h
  simp only [Host.Core.run, h']

theorem run_succ_of_refused {s : State} {r : Refusal} (k : Nat) (h : step s = .refused r) :
    Host.Core.run Sys2Proof.core (k + 1) s = .refused r := by
  have h' : Sys2Proof.core.step s = .refused r := h
  simp only [Host.Core.run, h']

end Sys2Proof.Machine
end

