-- ==== Sys2Proof/Laws/System.lean ====
section
/-! SUPPORT. What a transaction of one instance does to each instance of a system, and a run extended by one step. -/

namespace Sys2Proof.Machine

@[simp] theorem advance_next (s : State) : advance (.next s) = step s := rfl
@[simp] theorem advance_fault (f : Fault) : advance (.fault f) = .fault f := rfl
@[simp] theorem advance_refused (r : Refusal) : advance (.refused r) = .refused r := rfl

/-- No instance appears or disappears. -/
@[simp] theorem stepInstance_length (sys : List (Host.Outcome State Fault Refusal)) (k : Nat) :
    (stepInstance sys k).length = sys.length := by
  simp [stepInstance]

/-- Everything a transaction of instance `k` does to instance `j`. -/
theorem stepInstance_getElem? (sys : List (Host.Outcome State Fault Refusal)) (k j : Nat) :
    (stepInstance sys k)[j]? = if k = j then sys[j]?.map advance else sys[j]? := by
  unfold stepInstance
  rw [List.getElem?_modify]
  split <;> simp [*]

@[simp] theorem runInstances_nil (sys : List (Host.Outcome State Fault Refusal)) : runInstances sys [] = sys := rfl
@[simp] theorem runInstances_cons (sys : List (Host.Outcome State Fault Refusal)) (k : Nat) (ks : List Nat) :
    runInstances sys (k :: ks) = runInstances (stepInstance sys k) ks := rfl

/-- A run of one more step is the run with one transaction after it. -/
theorem advance_run (k : Nat) (s : State) :
    advance (Host.Core.run Sys2Proof.core k s) = Host.Core.run Sys2Proof.core (k + 1) s := by
  induction k generalizing s with
  | zero =>
    show step s = _
    cases h : step s with
    | next t => exact (run_succ_of_next 0 h).symm
    | fault f => exact (run_succ_of_fault 0 h).symm
    | refused r => exact (run_succ_of_refused 0 h).symm
  | succ k ih =>
    cases h : step s with
    | next t => rw [run_succ_of_next k h, run_succ_of_next (k + 1) h]; exact ih t
    | fault f => rw [run_succ_of_fault k h, run_succ_of_fault (k + 1) h]; rfl
    | refused r => rw [run_succ_of_refused k h, run_succ_of_refused (k + 1) h]; rfl

end Sys2Proof.Machine
end

