-- ==== Sys2Proof/Tests/Slice0.lean ====
section
/-! SUPPORT. The model's own tests. Every expected value is from the spec: its worked examples (41_encoders, 42_decoders,
60_exceptions), its encodings (30_encoding R71) or its tables (95_test_vectors). Then, for each statement with
hypotheses, a witness that meets them. -/

namespace Sys2Proof.Tests

open Sys2Proof.Machine

/-- The response word of one step, from reset, on a command word. -/
def answerTo (w : Nat) : Option RspWord :=
  match step (State.reset.withFetchWord 16 w) with
  | .next t =>
    match t.outputs with
    | .carry r => some r.word
    | .unspecified => none
  | .fault _ => none
  | .refused _ => none

/-! ### WellFormed: an ill-formed term for each check -/

theorem test_decauto7_refuses_length_eight : (Instr.decauto7 8#4 0x66#8).wellFormed = false := by decide
theorem test_decauto8_refuses_length_seven : (Instr.decauto8 7#4 0x67#8).wellFormed = false := by decide

/-! ### Decode: words written out from 30_encoding R60 and R61 as op, len, din -/

theorem test_decode_enc74 : decode (0b000#3 ++ 0b0100#4 ++ 0b00001101#8) = .enc74 4#4 0x0D#8 := by decide
theorem test_decode_enc84 : decode (0b001#3 ++ 0b0100#4 ++ 0b00001101#8) = .enc84 4#4 0x0D#8 := by decide
theorem test_decode_dec74 : decode (0b010#3 ++ 0b0111#4 ++ 0b01100111#8) = .dec74 7#4 0x67#8 := by decide
theorem test_decode_dec84 : decode (0b011#3 ++ 0b1000#4 ++ 0b01100101#8) = .dec84 8#4 0x65#8 := by decide
theorem test_decode_decauto7 : decode (0b100#3 ++ 0b0111#4 ++ 0b01100111#8) = .decauto7 7#4 0x67#8 := by decide
theorem test_decode_decauto8 : decode (0b100#3 ++ 0b1000#4 ++ 0b01100110#8) = .decauto8 8#4 0x66#8 := by decide
theorem test_decode_reserved101 : decode 0x540D#15 = .reserved101 4#4 0x0D#8 := by decide
theorem test_decode_reserved110 : decode 0x640D#15 = .reserved110 4#4 0x0D#8 := by decide
theorem test_decode_reserved111 : decode 0x7000#15 = .reserved111 0#4 0x00#8 := by decide
/-- A number with a sixteenth bit is no command. -/
theorem test_decode_rejects_wide : decodeTableWord 16 0x840D = none := by decide
theorem test_table_word : decodeTableWord 16 0x2767 = some (.dec74 7#4 0x67#8) := by decide

/-! ### The widths of 00_scope R8 -/

theorem test_command_width : Config.opW + Config.lenW + Config.dinW = Config.cmdW := by decide
theorem test_decauto_is_built : Config.hasDecauto = true := by decide

/-! ### One step from reset: the worked examples -/

/-- 41_encoders R101, the source's scenario 1. -/
theorem test_enc74_scenario1 : answerTo 0x040D = some 0x700066#24 := by decide
/-- 95_test_vectors T8. -/
theorem test_enc74_len5 : answerTo 0x050D = some 0x040000#24 := by decide
/-- 41_encoders R103, scenario 3. -/
theorem test_enc84_scenario3 : answerTo 0x140D = some 0x800066#24 := by decide
/-- 95_test_vectors T2, `[0,0,1,0]`: the overall parity bit is 1. -/
theorem test_enc84_overall_parity : answerTo 0x1404 = some 0x8000AA#24 := by decide
/-- 42_decoders R125, scenario 2. -/
theorem test_dec74_scenario2 : answerTo 0x2767 = some 0x704566#24 := by decide
/-- 95_test_vectors T11: two errors, miscorrected. -/
theorem test_dec74_double_error : answerTo 0x2765 = some 0x714D61#24 := by decide
/-- 42_decoders R130, scenario 4: DoubleErrorDetected. -/
theorem test_dec84_scenario4 : answerTo 0x3865 = some 0x800E65#24 := by decide
/-- 95_test_vectors T9: case 3, the overall parity bit. -/
theorem test_decauto8_case3 : answerTo 0x4880 = some 0x83E100#24 := by decide
/-- 95_test_vectors T9: the 7-bit path, `din[7]` ignored. -/
theorem test_decauto7_ignores_bit7 : answerTo 0x47E7 = some 0x704566#24 := by decide
/-- 95_test_vectors T9: the 8-bit path at length 9, and the 7-bit path at length 6. -/
theorem test_decauto8_len9 : answerTo 0x4966 = some 0x040000#24 := by decide
theorem test_decauto7_len6 : answerTo 0x4667 = some 0x040000#24 := by decide
/-- 95_test_vectors T8: reserved codes, the operation before the length. -/
theorem test_reserved101 : answerTo 0x58FF = some 0x0C0000#24 := by decide
theorem test_reserved110 : answerTo 0x640D = some 0x0C0000#24 := by decide
theorem test_reserved111 : answerTo 0x7000 = some 0x0C0000#24 := by decide

/-! ### The parity primitive and the notation -/

/-- 40_parity_check R90's worked example, `[0,0,1,0,0,1,1]`. -/
theorem test_parity_example : (parityCheckMatrixMult 0x64#7).s = 0b010#3 := by decide
/-- 30_encoding R71: `DEC84 [1,0,1,0,0,1,1,0]` is 0x3865. -/
theorem test_notation_dec84 :
    (AsmLine.mk 0b011#3 [true, false, true, false, false, true, true, false] none).command = 0x3865#15 := by decide
/-- 95_test_vectors P3 line 4: `DECAUTO w len=9`. -/
theorem test_notation_forced_length :
    (AsmLine.mk 0b100#3 [true, true, false, true, false, false, true, false] (some 9)).command = 0x494B#15 := by decide
/-- 70_reset R177: no vector is read from an error, and seven bits where `olen` = 7. -/
theorem test_vector_of_error : (raiseError .invalidLength).vector = none := by decide
theorem test_vector_of_enc74 :
    (enc74Response 0xD#4).vector = some [false, true, true, false, false, true, true] := by decide
/-- 70_reset R177: the index is read only when present. -/
theorem test_no_index_in_case4 : (dec84Response 0x65#8).errorIndex = none := by decide

/-! ### Undriven wires and early samples (70_reset R173, R175) -/

/-- DEC74's worked word with `din[7]`, which it ignores, undriven. -/
def dec74WithFloatingBit7 : InputPorts :=
  { InputPorts.ofCommand 0x2767#15 with
    din := #v[.driven true, .driven true, .driven true, .driven false, .driven false, .driven true, .driven true, .floating] }

/-- The same with the used `din[0]` unknown. -/
def dec74WithUnknownBit0 : InputPorts :=
  { InputPorts.ofCommand 0x2767#15 with
    din := #v[.unknown, .driven true, .driven true, .driven false, .driven false, .driven true, .driven true, .driven false] }

/-- A machine whose host presents one set of inputs. -/
def presenting (p : InputPorts) : State := { State.reset with pending := [p] }

theorem test_reset_host_drives_nothing : step State.reset = .fault .sampledBeforeSettle := by rfl
theorem test_unknown_used_bit_faults : step (presenting dec74WithUnknownBit0) = .fault (.undrivenInput .din) := by rfl
theorem test_floating_ignored_bit_answers : readCommand dec74WithFloatingBit7 = .ok 0x2767#15 := by rfl
theorem test_early_sample_faults :
    step (presenting { InputPorts.ofCommand 0x040D#15 with settled := false }) = .fault .sampledBeforeSettle := by rfl

/-! ### Witnesses: for each statement with hypotheses, a state and operands that meet all of them -/

theorem witness_decode_encode : ∃ i : Instr, i.wellFormed = true := ⟨.decauto7 7#4 0x67#8, by decide⟩
theorem witness_opcode_row : ∃ r ∈ opcodeTable, r.accepts 0x4866#15 = true :=
  ⟨⟨"DECAUTO8", "DECAUTO", 0x4800#15, 0x7F00#15⟩, by decide, by decide⟩
theorem witness_outside_every_row :
    (cmdOp 0x4966#15).toNat < 5 ∧ ∀ r ∈ opcodeTable, r.accepts 0x4966#15 = false := by decide
/-- StepRunsTheDecodedCommand, StepIsTheCoreFunction, ErrorFieldFollowsThePriority: a state whose ports carry a command,
presented or held. -/
theorem witness_command_presented :
    readCommand (presenting (InputPorts.ofCommand 0x3865#15)).present.inputs = .ok 0x3865#15 := by rfl
def holding (c : CmdWord) : State := { State.reset with inputs := InputPorts.ofCommand c }
theorem witness_command_held : (holding 0x3865#15).pending = []
    ∧ readCommand (holding 0x3865#15).present.inputs = .ok 0x3865#15 := ⟨rfl, rfl⟩
/-- ErrorFieldFollowsThePriority: a command for each of its three clauses. -/
theorem witness_priority_clauses : answerTo 0x7000 = some 0x0C0000#24 ∧ answerTo 0x4866 = some 0x800066#24
    ∧ answerTo 0x4966 = some 0x040000#24 := by decide
/-- DoubleErrorIsNoError: both statuses are answered. -/
theorem witness_double_error_and_corrected :
    (hammingCore 0x3865#15).status = 0b10#2 ∧ (hammingCore 0x2767#15).status = 0b01#2 := by decide
theorem witness_step_answers : step (holding 0x3865#15)
    = .next { holding 0x3865#15 with outputs := .carry (hammingCore 0x3865#15) } := by rfl
/-- HeldInputsRepeatTheResponse, the invariants and ResponseDependsOnTheCommandAlone: states with a next state, one with a
history and one without. -/
theorem witness_same_command_other_history :
    readCommand (holding 0x3865#15).present.inputs
      = readCommand (presenting (InputPorts.ofCommand 0x3865#15)).present.inputs := by rfl
theorem witness_invariants : State.OutputsLegal { holding 0x3865#15 with outputs := .carry (hammingCore 0x3865#15) }
    ∧ State.OutputsFollowInputs { holding 0x3865#15 with outputs := .carry (hammingCore 0x3865#15) } :=
  ⟨fun _ h => by cases h; decide, fun _ h => by cases h; exact ⟨0x3865#15, rfl, rfl⟩⟩
/-- IgnoredWiresChangeNoOutput: inputs that differ in an ignored wire only, one of them undriven there. -/
theorem witness_ignored_wire : dec74WithFloatingBit7 ≠ InputPorts.ofCommand 0x2767#15
    ∧ dec74WithFloatingBit7.op = (InputPorts.ofCommand 0x2767#15).op
    ∧ dec74WithFloatingBit7.len = (InputPorts.ofCommand 0x2767#15).len
    ∧ (∀ i (h : i < 8), (usedDin (wireBits dec74WithFloatingBit7.op) (wireBits dec74WithFloatingBit7.len)).getLsbD i = true →
        dec74WithFloatingBit7.din[i] = (InputPorts.ofCommand 0x2767#15).din[i])
    ∧ step (presenting dec74WithFloatingBit7)
      = .next { inputs := dec74WithFloatingBit7, outputs := .carry (hammingCore 0x2767#15), pending := [] } :=
  ⟨by decide, by decide, by decide, by decide, rfl⟩
/-- IgnoredDataBitsChangeNothing: data that differ in ignored bits only. -/
theorem witness_ignored_data : (0xFD#8).extractLsb' 0 4 = (0x0D#8).extractLsb' 0 4
    ∧ (0xE7#8).extractLsb' 0 7 = (0x67#8).extractLsb' 0 7 := by decide
/-- UndrivenUsedWireFaults: an input port with a broken wire, for each of the three ports. -/
theorem witness_undriven_op : Level.isDriven State.reset.present.inputs.op[0] = false := by decide
theorem witness_undriven_len : Level.isDriven State.reset.present.inputs.len[3] = false := by decide
theorem witness_undriven_din :
    (usedDin (wireBits dec74WithUnknownBit0.op) (wireBits dec74WithUnknownBit0.len)).getLsbD 0 = true
      ∧ Level.isDriven dec74WithUnknownBit0.din[0] = false := by decide
/-- EarlySampleFaults: inputs that were not held. -/
theorem witness_not_held : InputPorts.undriven.settled = false := by decide
/-- WrongLengthRaisesInvalidLength: a length next to each required one. -/
theorem witness_wrong_lengths : (3#4).toNat ≠ 4 ∧ (5#4).toNat ≠ 4 ∧ (6#4).toNat ≠ 7 ∧ (8#4).toNat ≠ 7
    ∧ (7#4).toNat ≠ 8 ∧ (9#4).toNat ≠ 8 ∧ (6#4).toNat ≠ 7 ∧ (6#4).toNat ≠ 8 ∧ (9#4).toNat ≠ 7 := by decide
/-- ParityBlockIsTheLinearMapH: a nonzero word of zero syndrome, and two positions. -/
theorem witness_zero_syndrome : syndromeOf 0x66#7 = 0 ∧ (0 : Fin 7) ≠ 6 := by decide
/-- Dec74MiscorrectsEveryDoubleError and Dec84IsSecded: two positions. -/
theorem witness_two_positions : (0 : Fin 7) ≠ 6 ∧ (0 : Fin 8) < 7 := by decide
/-- HostKeepingItsDutiesRunsSafely: a host at reset that keeps its duties for what it will present. -/
theorem witness_contract : ∀ p ∈ (presenting (InputPorts.ofCommand 0x2767#15)).pending, p.keepsContract = true := by decide
/-- StepKeepsInputsDrivenAndHeld: the two shapes of a state that meets it. -/
theorem witness_driven_and_held : (presenting (InputPorts.ofCommand 0x2767#15)).InputsDrivenAndHeld
    ∧ (holding 0x2767#15).InputsDrivenAndHeld := by
  constructor <;> exact ⟨by decide, by decide⟩
theorem witness_contract_nothing_pending : (holding 0x2767#15).inputs.keepsContract = true := by decide
/-- InstancesAreIndependent: a system of two, one of whose instances faults while the other answers, before and after. -/
theorem witness_system : runInstances [.next State.reset, .next (holding 0x2767#15)] [0, 1, 0]
    = [.fault .sampledBeforeSettle,
       .next { holding 0x2767#15 with outputs := .carry (hammingCore 0x2767#15) }] := by rfl
theorem witness_other_instance : (1 : Nat) ≠ 0 := by decide
/-- ResponseWordReadsBack: a response for each clause. -/
theorem witness_response_words : (hammingCore 0x3865#15).status ≠ 0b11#2 ∧ (hammingCore 0x3865#15).err ≠ 0b10#2
    ∧ (raiseError .invalidBitValue).err = 0b10#2 := by decide
/-- LongVectorsGetInvalidLength: a length in each clause, at its boundary. -/
theorem witness_vector_lengths : 15 ≤ 15 ∧ 15 < 16 ∧ 8 < 9 ∧ (0b100#3).toNat < 5 := by decide
/-- NotationLinesAreTheirCommands: a vector of each length. -/
theorem witness_vectors : (List.replicate 4 true).length = 4 ∧ (List.replicate 7 true).length = 7
    ∧ (List.replicate 8 true).length = 8 ∧ (List.replicate 15 true).length ≤ 15 ∧ 15 < (List.replicate 16 true).length
    ∧ 9 ≤ 15 := by decide

end Sys2Proof.Tests
end

/-! PROOFS of the family 00_scope: the ports carry the command word's bits, and that word is the one run. -/

namespace Sys2Proof.Machine

/-! ### The bits of a command's fields (30_encoding R60) -/

theorem cmdDin_getElem (c : CmdWord) (i : Nat) (h : i < 8) : (cmdDin c)[i] = c.getLsbD i := by
  simp [cmdDin]

theorem cmdLen_getElem (c : CmdWord) (i : Nat) (h : i < 4) : (cmdLen c)[i] = c.getLsbD (8 + i) := by
  simp [cmdLen]

theorem cmdOp_getElem (c : CmdWord) (i : Nat) (h : i < 3) : (cmdOp c)[i] = c.getLsbD (12 + i) := by
  simp [cmdOp]

/-! ### The wires of a presented command (00_scope R10, 20_memory R41) -/

theorem ofCommand_din_getElem (c : CmdWord) (i : Nat) (h : i < 8) :
    (InputPorts.ofCommand c).din[i] = .driven (c.getLsbD i) := by
  rw [← cmdDin_getElem c i h]
  exact driveWires_getElem (cmdDin c) i h

theorem ofCommand_len_getElem (c : CmdWord) (i : Nat) (h : i < 4) :
    (InputPorts.ofCommand c).len[i] = .driven (c.getLsbD (8 + i)) := by
  rw [← cmdLen_getElem c i h]
  exact driveWires_getElem (cmdLen c) i h

theorem ofCommand_op_getElem (c : CmdWord) (i : Nat) (h : i < 3) :
    (InputPorts.ofCommand c).op[i] = .driven (c.getLsbD (12 + i)) := by
  rw [← cmdOp_getElem c i h]
  exact driveWires_getElem (cmdOp c) i h

/-! ### The step that presents a command -/

/-- The host's move puts the inputs at the head of its commands on the ports, and those are read as the word driven. -/
theorem step_ofCommand_pending (s : State) (c : CmdWord) (rest : List InputPorts) :
    step { s with pending := InputPorts.ofCommand c :: rest }
      = exec (decode c) { s with inputs := InputPorts.ofCommand c, pending := rest } := by
  have hpresent := present_of_cons { s with pending := InputPorts.ofCommand c :: rest } _ rest rfl
  have hread : readCommand { s with pending := InputPorts.ofCommand c :: rest }.present.inputs = .ok c := by
    rw [hpresent]
    exact readCommand_ofCommand c
  rw [step_of_command hread, hpresent]

/-- Settles O8: the wires carry the bits of the word's fields, and what a step reads from them is that word. -/
theorem presentedCommandIsTheOneRun : Obligations.PresentedCommandIsTheOneRun := by
  unfold Obligations.PresentedCommandIsTheOneRun
  intro s c rest
  exact ⟨ofCommand_din_getElem c, ofCommand_len_getElem c, ofCommand_op_getElem c, step_ofCommand_pending s c rest⟩

end Sys2Proof.Machine

/-! PROOFS of the family 10_state: a step answers `core(cmd)` of the command on the ports and keeps nothing else, so the
response has no history. -/

namespace Sys2Proof.Machine

/-! ### What an arm answers -/

/-- No arm stops, and none changes anything but the output ports (10_state R20, R21, R23). -/
theorem exec_answers (i : Instr) (s : State) : ∃ r, exec i s = .next (s.answer r) := by
  cases i with
  | enc74 len din => exact ⟨_, exec_enc74 len din s⟩
  | enc84 len din => exact ⟨_, exec_enc84 len din s⟩
  | dec74 len din => exact ⟨_, exec_dec74 len din s⟩
  | dec84 len din => exact ⟨_, exec_dec84 len din s⟩
  | decauto7 len din => exact ⟨_, exec_decauto7 len din s⟩
  | decauto8 len din => exact ⟨_, exec_decauto8 len din s⟩
  | reserved101 len din => exact ⟨_, exec_reserved101 len din s⟩
  | reserved110 len din => exact ⟨_, exec_reserved110 len din s⟩
  | reserved111 len din => exact ⟨_, exec_reserved111 len din s⟩

/-! ### The decoded command's arm is `core(cmd)` (30_encoding R66) -/

/-- The length check in the order R66 writes it: the error first. -/
theorem requireLength_eq_ite (required : Nat) (len : LenField) (r : Response) :
    requireLength required len r = if len.toNat ≠ required then raiseError .invalidLength else r :=
  (ite_not ..).symm

/-! #### `core(cmd)`, an equation for each operation -/

theorem hammingCore_enc74 (len : LenField) (din : Byte) :
    hammingCore (packCommand 0b000#3 len din) = requireLength 4 len (enc74Response (dataOperand din)) := by
  simp [hammingCore, requireLength_eq_ite]

theorem hammingCore_enc84 (len : LenField) (din : Byte) :
    hammingCore (packCommand 0b001#3 len din) = requireLength 4 len (enc84Response (dataOperand din)) := by
  simp [hammingCore, requireLength_eq_ite]

theorem hammingCore_dec74 (len : LenField) (din : Byte) :
    hammingCore (packCommand 0b010#3 len din) = requireLength 7 len (dec74Response din) := by
  simp [hammingCore, requireLength_eq_ite]

theorem hammingCore_dec84 (len : LenField) (din : Byte) :
    hammingCore (packCommand 0b011#3 len din) = requireLength 8 len (dec84Response din) := by
  simp [hammingCore, requireLength_eq_ite]

theorem hammingCore_decauto_of_le {len : LenField} (h : 8 ≤ len.toNat) (din : Byte) :
    hammingCore (packCommand 0b100#3 len din) = requireLength 8 len (dec84Response din) := by
  simp [hammingCore, decauto, h, requireLength_eq_ite]

theorem hammingCore_decauto_of_not_le {len : LenField} (h : ¬ 8 ≤ len.toNat) (din : Byte) :
    hammingCore (packCommand 0b100#3 len din) = requireLength 7 len (dec74Response din) := by
  simp [hammingCore, decauto, h, requireLength_eq_ite]

theorem hammingCore_reserved101 (len : LenField) (din : Byte) :
    hammingCore (packCommand 0b101#3 len din) = raiseError .invalidOperation := by
  simp [hammingCore]

theorem hammingCore_reserved110 (len : LenField) (din : Byte) :
    hammingCore (packCommand 0b110#3 len din) = raiseError .invalidOperation := by
  simp [hammingCore]

theorem hammingCore_reserved111 (len : LenField) (din : Byte) :
    hammingCore (packCommand 0b111#3 len din) = raiseError .invalidOperation := by
  simp [hammingCore]

/-! #### The arm and `core(cmd)` agree -/

/-- Operation by operation, the arm that the decoder selects answers what R66's case split does. -/
theorem exec_decodeFields (op : Opcode) (len : LenField) (din : Byte) (s : State) :
    exec (decodeFields op len din) s = .next (s.answer (hammingCore (packCommand op len din))) := by
  unfold decodeFields
  split
  · rw [exec_enc74, hammingCore_enc74]
  · rw [exec_enc84, hammingCore_enc84]
  · rw [exec_dec74, hammingCore_dec74]
  · rw [exec_dec84, hammingCore_dec84]
  · split
    case isTrue h => rw [exec_decauto8, hammingCore_decauto_of_le h]
    case isFalse h => rw [exec_decauto7, hammingCore_decauto_of_not_le h]
  · rw [exec_reserved101, hammingCore_reserved101]
  · rw [exec_reserved110, hammingCore_reserved110]
  · rw [exec_reserved111, hammingCore_reserved111]

theorem exec_decode (c : CmdWord) (s : State) : exec (decode c) s = .next (s.answer (hammingCore c)) := by
  simpa [decode] using exec_decodeFields (cmdOp c) (cmdLen c) (cmdDin c) s

/-! ### The step answers `core(cmd)` -/

theorem step_answers_core {s : State} {c : CmdWord} (h : readCommand s.present.inputs = .ok c) :
    step s = .next (s.present.answer (hammingCore c)) := by
  rw [step_of_command h, exec_decode]

/-- Everything a step that answers a next state can have done. -/
theorem step_next_core {s t : State} (h : step s = .next t) :
    ∃ c, readCommand s.present.inputs = .ok c ∧ t = s.present.answer (hammingCore c) := by
  obtain ⟨c, hread, hexec⟩ := step_next h
  rw [exec_decode] at hexec
  cases hexec
  exact ⟨c, hread, rfl⟩

/-! ### A host's list of commands (10_state R22, R35) -/

/-- The machine after the command `c`, with nothing more to present. -/
def State.answered (c : CmdWord) : State where
  inputs := InputPorts.ofCommand c
  outputs := .carry (hammingCore c)
  pending := []

/-- A step takes the head of the list, and of the state before it only the rest of the list is left. -/
theorem step_withCommands_cons (s : State) (c : CmdWord) (cs : List CmdWord) :
    step (s.withCommands (c :: cs)) = .next ((State.answered c).withCommands cs) := by
  calc step (s.withCommands (c :: cs))
      = exec (decode c) { s with inputs := InputPorts.ofCommand c, pending := cs.map InputPorts.ofCommand } :=
        step_ofCommand_pending s c _
    _ = .next ((State.answered c).withCommands cs) := exec_decode c _

theorem run_withCommands_append_singleton (cs : List CmdWord) (c : CmdWord) (s : State) :
    Host.Core.run Sys2Proof.core (cs.length + 1) (s.withCommands (cs ++ [c])) = .next (State.answered c) := by
  induction cs generalizing s with
  | nil => exact run_succ_of_next 0 (step_withCommands_cons s c [])
  | cons b bs ih =>
    calc Host.Core.run Sys2Proof.core ((b :: bs).length + 1) (s.withCommands (b :: (bs ++ [c])))
        = Host.Core.run Sys2Proof.core (bs.length + 1) ((State.answered b).withCommands (bs ++ [c])) :=
          run_succ_of_next _ (step_withCommands_cons s b _)
      _ = .next (State.answered c) := ih _

/-! ### The obligations -/

/-- Settles O37: the step leaves the inputs it read where they are and answers `core(cmd)` of them, whatever the outputs
were before. -/
theorem stepKeepsOutputsFollowingInputs : Obligations.StepKeepsOutputsFollowingInputs := by
  unfold Obligations.StepKeepsOutputsFollowingInputs
  intro s t _ hstep
  obtain ⟨c, hread, rfl⟩ := step_next_core hstep
  refine ⟨fun r hr => ⟨c, hread, ?_⟩, OutputPorts.noConfusion⟩
  rw [answer_outputs] at hr
  exact (OutputPorts.carry.inj hr).symm

/-- Settles O10: both steps answer `core` of the one command. -/
theorem responseDependsOnTheCommandAlone : Obligations.ResponseDependsOnTheCommandAlone := by
  unfold Obligations.ResponseDependsOnTheCommandAlone
  intro s₁ s₂ t₁ hsame hstep
  obtain ⟨c, hread, rfl⟩ := step_next_core hstep
  exact ⟨_, step_answers_core (hsame.symm.trans hread), rfl⟩

/-- Settles O17: the second step reads the same inputs, and its answer replaces the first, which is the same. -/
theorem heldInputsRepeatTheResponse : Obligations.HeldInputsRepeatTheResponse := by
  unfold Obligations.HeldInputsRepeatTheResponse
  intro s t hnil hstep
  obtain ⟨c, hread, rfl⟩ := step_next_core hstep
  rw [present_of_nil s hnil] at hread ⊢
  have hpresent : (s.answer (hammingCore c)).present = s.answer (hammingCore c) := present_of_nil _ hnil
  have hread' : readCommand (s.answer (hammingCore c)).present.inputs = .ok c := by rw [hpresent]; exact hread
  rw [step_answers_core hread', hpresent, answer_answer]

/-- Settles O39, by induction on the commands before the last. -/
theorem commandListRunsToTheLastResponse : Obligations.CommandListRunsToTheLastResponse := by
  unfold Obligations.CommandListRunsToTheLastResponse
  exact run_withCommands_append_singleton

/-- Settles O7: the step's equation on a command, and the two cases of the host's move. -/
theorem stepRunsTheDecodedCommand : Obligations.StepRunsTheDecodedCommand := by
  unfold Obligations.StepRunsTheDecodedCommand
  exact ⟨fun _ _ => step_of_command, present_of_nil, present_of_cons⟩

/-- Settles O16: every arm is an answer, which keeps the inputs and what is pending. -/
theorem everyCommandCompletesChangingOnlyTheOutputs : Obligations.EveryCommandCompletesChangingOnlyTheOutputs := by
  unfold Obligations.EveryCommandCompletesChangingOnlyTheOutputs
  exact exec_answers

end Sys2Proof.Machine

/-! PROOFS of the family 20_memory: no output depends on a `din` bit or wire the operation ignores, and no machine of a
system on the transactions of another. -/

namespace Sys2Proof.Machine

/-! ### The operands an operation reads (20_memory R43) -/

theorem dataOperand_eq_of_bits {a b : Byte} (h : ∀ i < 4, a.getLsbD i = b.getLsbD i) :
    dataOperand a = dataOperand b :=
  BitVec.eq_of_getLsbD_eq fun i hi => by rw [dataOperand_getLsbD, dataOperand_getLsbD, h i hi]

theorem bodyOperand_eq_of_bits {a b : Byte} (h : ∀ i < 7, a.getLsbD i = b.getLsbD i) :
    bodyOperand a = bodyOperand b :=
  BitVec.eq_of_getLsbD_eq fun i hi => by rw [bodyOperand_getLsbD, bodyOperand_getLsbD, h i hi]

/-- `ext` = 0 ignores `r[7]` (10_state R32), so a 7-bit decode is a function of the body. -/
theorem dec74Response_congr {a b : Byte} (h : bodyOperand a = bodyOperand b) : dec74Response a = dec74Response b := by
  simp only [dec74Response, decoder_ext_off, h]

/-! ### `core(cmd)` on the used bits -/

theorem usedDin_decauto_of_le {len : LenField} (h : 8 ≤ len.toNat) : usedDin 0b100#3 len = 0xFF#8 := if_pos h

theorem usedDin_decauto_of_not_le {len : LenField} (h : ¬ 8 ≤ len.toNat) : usedDin 0b100#3 len = 0x7F#8 := if_neg h

theorem lowNibble_getLsbD : ∀ i < 4, (0x0F#8).getLsbD i = true := by decide

theorem lowSeven_getLsbD : ∀ i < 7, (0x7F#8).getLsbD i = true := by decide

theorem allOnes_getLsbD : ∀ i < 8, (0xFF#8).getLsbD i = true := by decide

/-- "No output depends on an input bit the operation does not use" (20_memory R43): by operation, the used bits are
all of the operand that its response is computed from. -/
theorem hammingCore_eq_of_used_bits (op : Opcode) (len : LenField) (a b : Byte)
    (h : ∀ i, (usedDin op len).getLsbD i = true → a.getLsbD i = b.getLsbD i) :
    hammingCore (packCommand op len a) = hammingCore (packCommand op len b) := by
  have hdata (hmask : usedDin op len = 0x0F#8) : dataOperand a = dataOperand b :=
    dataOperand_eq_of_bits fun i hi => h i (hmask ▸ lowNibble_getLsbD i hi)
  have hbody (hmask : usedDin op len = 0x7F#8) : dec74Response a = dec74Response b :=
    dec74Response_congr (bodyOperand_eq_of_bits fun i hi => h i (hmask ▸ lowSeven_getLsbD i hi))
  have hbyte (hmask : usedDin op len = 0xFF#8) : a = b :=
    BitVec.eq_of_getLsbD_eq fun i hi => h i (hmask ▸ allOnes_getLsbD i hi)
  match op with
  | 0b000#3 => rw [hammingCore_enc74, hammingCore_enc74, hdata rfl]
  | 0b001#3 => rw [hammingCore_enc84, hammingCore_enc84, hdata rfl]
  | 0b010#3 => rw [hammingCore_dec74, hammingCore_dec74, hbody rfl]
  | 0b011#3 => rw [hbyte rfl]
  | 0b100#3 =>
    by_cases hlen : 8 ≤ len.toNat
    · rw [hbyte (usedDin_decauto_of_le hlen)]
    · rw [hammingCore_decauto_of_not_le hlen, hammingCore_decauto_of_not_le hlen,
        hbody (usedDin_decauto_of_not_le hlen)]
  | 0b101#3 => rw [hammingCore_reserved101, hammingCore_reserved101]
  | 0b110#3 => rw [hammingCore_reserved110, hammingCore_reserved110]
  | 0b111#3 => rw [hammingCore_reserved111, hammingCore_reserved111]

/-! ### Reading wires that agree where they are used -/

theorem wireBits_getLsbD_eq {n : Nat} {used : BitVec n} {v w : Wires n}
    (h : ∀ i (hi : i < n), used.getLsbD i = true → v[i] = w[i]) (i : Nat) (hused : used.getLsbD i = true) :
    (wireBits v).getLsbD i = (wireBits w).getLsbD i := by
  have hi : i < n := BitVec.lt_of_getLsbD hused
  rw [BitVec.getLsbD_eq_getElem hi, BitVec.getLsbD_eq_getElem hi, wireBits_getElem, wireBits_getElem, h i hi hused]

theorem usedDriven_of_agree {n : Nat} {used : BitVec n} {v w : Wires n}
    (h : ∀ i (hi : i < n), used.getLsbD i = true → v[i] = w[i]) (hv : usedDriven used v = true) :
    usedDriven used w = true := by
  rw [usedDriven_iff] at hv ⊢
  intro i hi hused
  rw [← h i hi hused]
  exact hv i hi hused

/-- Ports that agree but for ignored `din` wires are read as a command too, with the data of their own wires (70_reset
R173). -/
theorem readCommand_of_agree {p q : InputPorts} {c : CmdWord} (hsettled : p.settled = q.settled) (hop : p.op = q.op)
    (hlen : p.len = q.len)
    (hdin : ∀ i (h : i < 8), (usedDin (wireBits p.op) (wireBits p.len)).getLsbD i = true → p.din[i] = q.din[i])
    (hread : readCommand p = .ok c) :
    readCommand q = .ok (packCommand (wireBits p.op) (wireBits p.len) (wireBits q.din)) := by
  obtain ⟨hs, ho, hl, hd, -⟩ := readCommand_eq_ok hread
  have hd' := usedDriven_of_agree hdin hd
  rw [hsettled] at hs
  rw [hop, hlen] at hd' ⊢
  rw [hop] at ho
  rw [hlen] at hl
  exact readCommand_of_keepsContract (by simp only [InputPorts.keepsContract, hs, ho, hl, hd', Bool.and_self])

/-! ### Schedules of instances (20_memory R46, 60_exceptions R163) -/

/-- A run is as many transactions, one after another. -/
theorem iterate_advance_next (k : Nat) (s : State) : advance^[k] (.next s) = Host.Core.run Sys2Proof.core k s := by
  induction k with
  | zero => rfl
  | succ k ih => rw [Function.iterate_succ_apply', ih, advance_run]

/-- After a schedule each machine has taken its own transactions and no other. -/
theorem runInstances_getElem? (sys : List (Host.Outcome State Fault Refusal)) (ks : List Nat) (j : Nat) :
    (runInstances sys ks)[j]? = sys[j]?.map advance^[ks.count j] := by
  induction ks generalizing sys with
  | nil => simp
  | cons k ks ih =>
    rw [runInstances_cons, ih, stepInstance_getElem?]
    by_cases hk : k = j
    · rw [if_pos hk, hk, List.count_cons_self, Function.iterate_succ, Option.map_map]
    · rw [if_neg hk, List.count_cons_of_ne hk]

/-! ### The obligations -/

/-- Settles O11: the second ports are read as a command that differs in ignored bits only, and `core` is the same on
both. -/
theorem ignoredWiresChangeNoOutput : Obligations.IgnoredWiresChangeNoOutput := by
  unfold Obligations.IgnoredWiresChangeNoOutput
  intro s t p q rest hsettled hop hlen hdin hstep
  obtain ⟨c, hread, rfl⟩ := step_next_core hstep
  rw [present_of_cons _ p rest rfl] at hread ⊢
  obtain ⟨-, -, -, -, hc⟩ := readCommand_eq_ok hread
  have hread' : readCommand { s with pending := q :: rest }.present.inputs
      = .ok (packCommand (wireBits p.op) (wireBits p.len) (wireBits q.din)) := by
    rw [present_of_cons _ q rest rfl]
    exact readCommand_of_agree hsettled hop hlen hdin hread
  have hcore : hammingCore (packCommand (wireBits p.op) (wireBits p.len) (wireBits q.din)) = hammingCore c := by
    rw [hc]
    exact (hammingCore_eq_of_used_bits _ _ _ _ (wireBits_getLsbD_eq hdin)).symm
  refine ⟨_, step_answers_core hread', ?_, ?_⟩
  · rw [answer_outputs, answer_outputs, hcore]
  · rw [answer_pending, answer_pending, present_pending, List.tail_cons]

/-- Settles O12: an encode reads the data operand alone, a 7-bit decode the body alone, a reserved code nothing. -/
theorem ignoredDataBitsChangeNothing : Obligations.IgnoredDataBitsChangeNothing := by
  unfold Obligations.IgnoredDataBitsChangeNothing
  intro len a b s
  refine ⟨⟨rfl, rfl, rfl, rfl, rfl, rfl, rfl, rfl⟩, ?_, ?_, rfl, rfl, rfl⟩
  · intro hdata
    have hdata' : dataOperand a = dataOperand b := hdata
    exact ⟨by rw [exec_enc74, exec_enc74, hdata'], by rw [exec_enc84, exec_enc84, hdata']⟩
  · intro hbody
    have hresponse : dec74Response a = dec74Response b := dec74Response_congr hbody
    exact ⟨by rw [exec_dec74, exec_dec74, hresponse], by rw [exec_decauto7, exec_decauto7, hresponse]⟩

/-- Settles O42: a transaction modifies its own place in the list only; each machine's own transactions are its run. -/
theorem instancesAreIndependent : Obligations.InstancesAreIndependent := by
  unfold Obligations.InstancesAreIndependent
  refine ⟨fun sys k j => ⟨stepInstance_length sys k, ?_, ?_⟩, fun sys ks j => ?_⟩
  · intro hjk
    rw [stepInstance_getElem?, if_neg hjk.symm]
  · rw [stepInstance_getElem?, if_pos rfl]
  · have hrun : advance^[ks.count j] ∘ .next = Host.Core.run Sys2Proof.core (ks.count j) :=
      funext (iterate_advance_next (ks.count j))
    rw [runInstances_getElem?, List.getElem?_map, Option.map_map]
    exact congrArg (Option.map · sys[j]?) hrun

end Sys2Proof.Machine

/-! PROOFS of the family 30_encoding: decode and encode are inverse to one another, the opcode table's rows are read
back by the decoder, every response the core drives is legal, and the two words hold their fields. -/

namespace Sys2Proof

/-! ### The decoder and the encoder (30_encoding R60, R61) -/

/-- The row of DECAUTO that `len` picks (42_decoders R132). -/
theorem decodeFields_decauto_of_le {len : LenField} (h : 8 ≤ len.toNat) (din : Byte) :
    decodeFields 0b100#3 len din = .decauto8 len din := if_pos h

theorem decodeFields_decauto_of_not_le {len : LenField} (h : ¬ 8 ≤ len.toNat) (din : Byte) :
    decodeFields 0b100#3 len din = .decauto7 len din := if_neg h

/-- The decoder gives a well-formed command that has exactly the fields it read. -/
theorem decodeFields_spec (op : Opcode) (len : LenField) (din : Byte) :
    (decodeFields op len din).wellFormed = true ∧ (decodeFields op len din).opcode = op
      ∧ (decodeFields op len din).lenField = len ∧ (decodeFields op len din).dinField = din := by
  match op with
  | 0b000#3 => exact ⟨rfl, rfl, rfl, rfl⟩
  | 0b001#3 => exact ⟨rfl, rfl, rfl, rfl⟩
  | 0b010#3 => exact ⟨rfl, rfl, rfl, rfl⟩
  | 0b011#3 => exact ⟨rfl, rfl, rfl, rfl⟩
  | 0b100#3 =>
    by_cases h : 8 ≤ len.toNat
    · rw [decodeFields_decauto_of_le h]
      exact ⟨decide_eq_true h, rfl, rfl, rfl⟩
    · rw [decodeFields_decauto_of_not_le h]
      exact ⟨decide_eq_true (Nat.lt_of_not_le h), rfl, rfl, rfl⟩
  | 0b101#3 => exact ⟨rfl, rfl, rfl, rfl⟩
  | 0b110#3 => exact ⟨rfl, rfl, rfl, rfl⟩
  | 0b111#3 => exact ⟨rfl, rfl, rfl, rfl⟩

/-- A well-formed command is the one the decoder selects for its fields: only DECAUTO's two rows share a code, and
well-formedness says which of them `len` picks. -/
theorem decodeFields_of_wellFormed {i : Instr} (h : i.wellFormed = true) :
    decodeFields i.opcode i.lenField i.dinField = i := by
  cases i with
  | enc74 len din => rfl
  | enc84 len din => rfl
  | dec74 len din => rfl
  | dec84 len din => rfl
  | decauto7 len din => exact decodeFields_decauto_of_not_le (Nat.not_le_of_lt (of_decide_eq_true h)) din
  | decauto8 len din => exact decodeFields_decauto_of_le (of_decide_eq_true h) din
  | reserved101 len din => rfl
  | reserved110 len din => rfl
  | reserved111 len din => rfl

/-- Settles O2: the decoder reads the encoder's fields back, and selects by them the command they came from. -/
theorem decodeOfEncodeIsTheCommand : Obligations.DecodeOfEncodeIsTheCommand := by
  unfold Obligations.DecodeOfEncodeIsTheCommand
  intro i hwf
  rw [encode, decode_packCommand, decodeFields_of_wellFormed hwf]

/-- Settles O3: the command keeps the word's three fields, which are all of the word. -/
theorem encodeOfDecodeIsTheWord : Obligations.EncodeOfDecodeIsTheWord := by
  unfold Obligations.EncodeOfDecodeIsTheWord
  intro c
  obtain ⟨hwf, hop, hlen, hdin⟩ := decodeFields_spec (cmdOp c) (cmdLen c) (cmdDin c)
  refine ⟨hwf, ?_⟩
  rw [encode, decode, hop, hlen, hdin, packCommand_fields]

/-- `cmd = op*4096 + len*256 + din` (30_encoding R60). -/
theorem packCommand_toNat (op : Opcode) (len : LenField) (din : Byte) :
    (packCommand op len din).toNat = op.toNat * 4096 + len.toNat * 256 + din.toNat := by
  have hlow : (len ++ din).toNat = len.toNat * 256 + din.toNat := by
    rw [BitVec.toNat_append, ← Nat.shiftLeft_add_eq_or_of_lt din.isLt, Nat.shiftLeft_eq]
  rw [packCommand, BitVec.toNat_append, ← Nat.shiftLeft_add_eq_or_of_lt (len ++ din).isLt, Nat.shiftLeft_eq, hlow,
    Nat.add_assoc]

/-- Settles O4: the three fields are what the decoder reads at those places. -/
theorem commandWordIsOpLenDin : Obligations.CommandWordIsOpLenDin := by
  unfold Obligations.CommandWordIsOpLenDin
  intro i
  obtain ⟨hop, hlen, hdin⟩ := Laws.EncodesFields.of_pack i
  exact ⟨hop, hlen, hdin, packCommand_toNat i.opcode i.lenField i.dinField⟩

/-- Settles O1: each word is evaluated. -/
theorem workedWordsDecodeToTheirCommands : Obligations.WorkedWordsDecodeToTheirCommands := by
  unfold Obligations.WorkedWordsDecodeToTheirCommands
  decide

/-! ### The opcode table (30_encoding R71) -/

theorem cmdWord_ext {c d : CmdWord} (hop : cmdOp c = cmdOp d) (hlen : cmdLen c = cmdLen d)
    (hdin : cmdDin c = cmdDin d) : c = d := by
  rw [← packCommand_fields c, hop, hlen, hdin, packCommand_fields]

/-- A row looks at each field of the word by itself. -/
theorem accepts_iff_fields (r : OpcodeRow) (c : CmdWord) :
    r.accepts c = true ↔ cmdOp c &&& cmdOp r.mask = cmdOp r.pattern ∧ cmdLen c &&& cmdLen r.mask = cmdLen r.pattern
      ∧ cmdDin c &&& cmdDin r.mask = cmdDin r.pattern := by
  have hop : cmdOp (c &&& r.mask) = cmdOp c &&& cmdOp r.mask := BitVec.extractLsb'_and
  have hlen : cmdLen (c &&& r.mask) = cmdLen c &&& cmdLen r.mask := BitVec.extractLsb'_and
  have hdin : cmdDin (c &&& r.mask) = cmdDin c &&& cmdDin r.mask := BitVec.extractLsb'_and
  rw [OpcodeRow.accepts, beq_iff_eq, ← hop, ← hlen, ← hdin]
  exact ⟨fun h => ⟨congrArg cmdOp h, congrArg cmdLen h, congrArg cmdDin h⟩, fun ⟨h₁, h₂, h₃⟩ => cmdWord_ext h₁ h₂ h₃⟩

/-- A row of an operation and its length, whatever the data. -/
theorem accepts_operation_iff {r : OpcodeRow} {op : Opcode} {len : LenField} (hmask : r.mask = 0x7F00#15)
    (hpattern : r.pattern = packCommand op len 0x00#8) (c : CmdWord) :
    r.accepts c = true ↔ cmdOp c = op ∧ cmdLen c = len := by
  have hop : cmdOp c &&& cmdOp 0x7F00#15 = cmdOp c := BitVec.and_allOnes
  have hlen : cmdLen c &&& cmdLen 0x7F00#15 = cmdLen c := BitVec.and_allOnes
  have hdin : cmdDin c &&& cmdDin 0x7F00#15 = 0x00#8 := BitVec.and_zero
  simp [accepts_iff_fields, hmask, hpattern, hop, hlen, hdin]

/-- A row of a reserved code, whatever the length and the data. -/
theorem accepts_reserved_iff {r : OpcodeRow} {op : Opcode} (hmask : r.mask = 0x7000#15)
    (hpattern : r.pattern = packCommand op 0#4 0x00#8) (c : CmdWord) : r.accepts c = true ↔ cmdOp c = op := by
  have hop : cmdOp c &&& cmdOp 0x7000#15 = cmdOp c := BitVec.and_allOnes
  have hlen : cmdLen c &&& cmdLen 0x7000#15 = 0#4 := BitVec.and_zero
  have hdin : cmdDin c &&& cmdDin 0x7000#15 = 0x00#8 := BitVec.and_zero
  simp [accepts_iff_fields, hmask, hpattern, hop, hlen, hdin]

/-- The words of an operation's row decode to one constructor, since the decoder picks it by `op` and `len`. -/
theorem rowId_decode_of_operation {r : OpcodeRow} (op : Opcode) (len : LenField) (hmask : r.mask = 0x7F00#15)
    (hpattern : r.pattern = packCommand op len 0x00#8) (hrow : ∀ din, (decodeFields op len din).rowId = r.rowId)
    (c : CmdWord) (h : r.accepts c = true) : (decode c).rowId = r.rowId := by
  obtain ⟨hop, hlen⟩ := (accepts_operation_iff hmask hpattern c).mp h
  rw [decode, hop, hlen, hrow]

theorem rowId_decode_of_reserved {r : OpcodeRow} (op : Opcode) (hmask : r.mask = 0x7000#15)
    (hpattern : r.pattern = packCommand op 0#4 0x00#8) (hrow : ∀ len din, (decodeFields op len din).rowId = r.rowId)
    (c : CmdWord) (h : r.accepts c = true) : (decode c).rowId = r.rowId := by
  rw [decode, (accepts_reserved_iff hmask hpattern c).mp h, hrow]

/-- A word of a row decodes to the row's constructor. -/
theorem rowId_decode_of_accepts :
    ∀ r ∈ opcodeTable, ∀ c : CmdWord, r.accepts c = true → (decode c).rowId = r.rowId := by
  simp only [opcodeTable, List.forall_mem_cons]
  exact ⟨rowId_decode_of_operation 0b000#3 4#4 rfl rfl fun _ => rfl,
    rowId_decode_of_operation 0b001#3 4#4 rfl rfl fun _ => rfl,
    rowId_decode_of_operation 0b010#3 7#4 rfl rfl fun _ => rfl,
    rowId_decode_of_operation 0b011#3 8#4 rfl rfl fun _ => rfl,
    rowId_decode_of_operation 0b100#3 7#4 rfl rfl fun _ => rfl,
    rowId_decode_of_operation 0b100#3 8#4 rfl rfl fun _ => rfl,
    rowId_decode_of_reserved 0b101#3 rfl rfl fun _ _ => rfl,
    rowId_decode_of_reserved 0b110#3 rfl rfl fun _ _ => rfl,
    rowId_decode_of_reserved 0b111#3 rfl rfl fun _ _ => rfl,
    List.forall_mem_nil _⟩

theorem row_eq_of_rowId_eq : ∀ r ∈ opcodeTable, ∀ r' ∈ opcodeTable, r'.rowId = r.rowId → r' = r := by decide

/-- Settles O5: both rows that accept a word name the constructor it decodes to, and no name stands in the table
twice. -/
theorem opcodeRowsAreDisjointAndDecodeToTheirCommand : Obligations.OpcodeRowsAreDisjointAndDecodeToTheirCommand := by
  unfold Obligations.OpcodeRowsAreDisjointAndDecodeToTheirCommand
  intro c r hr haccepts
  have hrow := rowId_decode_of_accepts r hr c haccepts
  refine ⟨hrow, fun r' hr' haccepts' => row_eq_of_rowId_eq r hr r' hr' ?_⟩
  rw [← rowId_decode_of_accepts r' hr' c haccepts', hrow]

/-! ### The lengths of the operations (30_encoding R66, 42_decoders R132) -/

/-- The lengths an operation performs; a reserved code is no operation. -/
def requiredLengths : Opcode → List Nat
  | 0b000#3 => [4]
  | 0b001#3 => [4]
  | 0b010#3 => [7]
  | 0b011#3 => [8]
  | 0b100#3 => [7, 8]
  | 0b101#3 => []
  | 0b110#3 => []
  | 0b111#3 => []

theorem requiredLengths_le_eight : ∀ op : Opcode, ∀ n ∈ requiredLengths op, n ≤ 8 := by decide

/-- The table has a row for every operation and length it performs. -/
theorem exists_row_of_mem_requiredLengths : ∀ (op : Opcode) (len : LenField), len.toNat ∈ requiredLengths op →
    ∃ r ∈ opcodeTable, r.mask = 0x7F00#15 ∧ r.pattern = packCommand op len 0x00#8 := by decide

theorem not_mem_requiredLengths_of_no_row {c : CmdWord} (hno : ∀ r ∈ opcodeTable, r.accepts c = false) :
    (cmdLen c).toNat ∉ requiredLengths (cmdOp c) := by
  intro hlen
  obtain ⟨r, hr, hmask, hpattern⟩ := exists_row_of_mem_requiredLengths _ _ hlen
  have haccepts : r.accepts c = true := (accepts_operation_iff hmask hpattern c).mpr ⟨rfl, rfl⟩
  exact Bool.false_ne_true ((hno r hr).symm.trans haccepts)

end Sys2Proof

namespace Sys2Proof.Machine

/-- A valid operation with a length it does not perform, DECAUTO on either of its paths. -/
theorem hammingCore_of_wrong_length {op : Opcode} {len : LenField} (hop : op.toNat < 5)
    (hlen : len.toNat ∉ requiredLengths op) (din : Byte) :
    hammingCore (packCommand op len din) = raiseError .invalidLength := by
  have hne {n : Nat} (hn : n ∈ requiredLengths op) : len.toNat ≠ n := fun h => hlen (h ▸ hn)
  match op with
  | 0b000#3 => rw [hammingCore_enc74, requireLength_of_ne (hne (by decide))]
  | 0b001#3 => rw [hammingCore_enc84, requireLength_of_ne (hne (by decide))]
  | 0b010#3 => rw [hammingCore_dec74, requireLength_of_ne (hne (by decide))]
  | 0b011#3 => rw [hammingCore_dec84, requireLength_of_ne (hne (by decide))]
  | 0b100#3 =>
    by_cases hpath : 8 ≤ len.toNat
    · rw [hammingCore_decauto_of_le hpath, requireLength_of_ne (hne (by decide))]
    · rw [hammingCore_decauto_of_not_le hpath, requireLength_of_ne (hne (by decide))]
  | 0b101#3 => exact absurd hop (by decide)
  | 0b110#3 => exact absurd hop (by decide)
  | 0b111#3 => exact absurd hop (by decide)

/-- Settles O6: a word off every row has a length its operation does not perform. -/
theorem validOpOutsideEveryRowAnswersInvalidLength : Obligations.ValidOpOutsideEveryRowAnswersInvalidLength := by
  unfold Obligations.ValidOpOutsideEveryRowAnswersInvalidLength
  intro s c hop hno
  have hcore := hammingCore_of_wrong_length hop (not_mem_requiredLengths_of_no_row hno) (cmdDin c)
  rw [packCommand_fields] at hcore
  rw [exec_decode, hcore, State.answer]

/-- Settles O9: the step reads the command on the ports, and its arm is R66's case. -/
theorem stepIsTheCoreFunction : Obligations.StepIsTheCoreFunction := by
  unfold Obligations.StepIsTheCoreFunction
  exact fun _ _ hread => step_answers_core hread

/-! ### The host's side (30_encoding R62, R70) -/

theorem saturateLength_toNat (n : Nat) : (saturateLength n).toNat = min n 15 := by
  rw [saturateLength, BitVec.toNat_ofNat, Nat.mod_eq_of_lt (by omega)]

theorem saturateLength_of_le {n : Nat} (h : n ≤ 15) : saturateLength n = BitVec.ofNat 4 n := by
  rw [saturateLength, Nat.min_eq_left h]

theorem saturateLength_of_lt {n : Nat} (h : 15 < n) : saturateLength n = 15#4 := by
  rw [saturateLength, Nat.min_eq_right h.le]

/-- Settles O45: no operation performs a length above 8, and saturation leaves such a length above 8. -/
theorem longVectorsGetInvalidLength : Obligations.LongVectorsGetInvalidLength := by
  unfold Obligations.LongVectorsGetInvalidLength
  intro n
  rw [saturateLength_toNat]
  refine ⟨Nat.min_eq_left, fun h => Nat.min_eq_right h.le, fun h op din s hop => ?_⟩
  have hlen : (saturateLength n).toNat ∉ requiredLengths op := by
    intro hmem
    have hle := requiredLengths_le_eight op _ hmem
    rw [saturateLength_toNat] at hle
    omega
  rw [exec_decodeFields, hammingCore_of_wrong_length hop hlen, State.answer]

/-- The decoder reads a line's fields: its operation, its length, forced or the vector's, and its bits. -/
theorem decode_command (l : AsmLine) : decode l.command
    = decodeFields l.op (saturateLength (l.forceLen.getD l.bits.length)) (vectorBits l.bits) :=
  decode_packCommand _ _ _

/-- Without a forced length the line's length is its vector's. -/
theorem decode_command_of_length (op : Opcode) {bits : List Bool} {n : Nat} (h : bits.length = n) :
    decode (AsmLine.command ⟨op, bits, none⟩) = decodeFields op (saturateLength n) (vectorBits bits) := by
  rw [decode_command, Option.getD_none, h]

/-- Element `i` of a vector is bit `i`, and 0 stands above the last. -/
theorem vectorBits_getLsbD (bits : List Bool) {i : Nat} (hi : i < 8) :
    (vectorBits bits).getLsbD i = bits.getD i false := by
  rw [vectorBits, BitVec.getLsbD_ofFnLE, dif_pos hi]

/-- Settles O46: every line decodes to the fields it names; a line whose length is known is then evaluated. -/
theorem notationLinesAreTheirCommands : Obligations.NotationLinesAreTheirCommands := by
  unfold Obligations.NotationLinesAreTheirCommands
  refine ⟨fun bits h => ?_, fun bits h => ?_, fun bits h => ?_, fun bits => ⟨fun h => ?_, fun h => ?_⟩,
    fun op bits n h => ?_, fun bits i => vectorBits_getLsbD bits⟩
  · have hline (op : Opcode) := decode_command_of_length op h
    exact ⟨hline 0b000#3, hline 0b001#3, hline 0b000#3, hline 0b001#3⟩
  · have hline (op : Opcode) := decode_command_of_length op h
    exact ⟨hline 0b010#3, hline 0b100#3⟩
  · have hline (op : Opcode) := decode_command_of_length op h
    exact ⟨hline 0b011#3, hline 0b100#3⟩
  · rw [decode_command_of_length _ rfl, saturateLength_of_le h]
  · rw [decode_command_of_length _ rfl, saturateLength_of_lt h]
  · rw [decode_command, Option.getD_some, saturateLength_of_le h]

/-! ### The response word (30_encoding R63) -/

/-- Settles O43: each field stands above the fields to its right. -/
theorem responseWordHoldsEveryField : Obligations.ResponseWordHoldsEveryField := by
  unfold Obligations.ResponseWordHoldsEveryField
  intro r
  have hflag (b : Bool) : (BitVec.ofBool b).getLsbD 0 = b := by cases b <;> rfl
  simp (disch := decide) only [Response.word, BitVec.extractLsb'_append_eq_of_le,
    BitVec.extractLsb'_append_eq_of_add_le, BitVec.getLsbD_append]
  exact ⟨BitVec.extractLsb'_eq_self, BitVec.extractLsb'_eq_self, BitVec.extractLsb'_eq_self, hflag r.opv, hflag r.eidxV,
    BitVec.extractLsb'_eq_self, BitVec.extractLsb'_eq_self, BitVec.extractLsb'_eq_self⟩

/-- Settles O44: the fields read from the word are the response's, so the refusal asks for its `status` and `err`. -/
theorem responseWordReadsBack : Obligations.ResponseWordReadsBack := by
  unfold Obligations.ResponseWordReadsBack
  intro r
  obtain ⟨hdout, hstatus, hsyndrome, hopv, heidxV, heidx, herr, holen⟩ := responseWordHoldsEveryField r
  rw [Response.ofWord, hdout, hstatus, hsyndrome, hopv, heidxV, heidx, herr, holen]
  exact ⟨fun hs he => if_neg (not_or.mpr ⟨hs, he⟩), fun h => if_pos h⟩

/-! ### Every response of `core(cmd)` is legal (30_encoding R63 to R65, R69) -/

theorem raiseError_invalidLength_legal : (raiseError .invalidLength).legal = true := rfl

theorem raiseError_invalidOperation_legal : (raiseError .invalidOperation).legal = true := rfl

/-- The length check answers InvalidLength or what it was given. -/
theorem requireLength_legal {r : Response} (h : r.legal = true) (required : Nat) (len : LenField) :
    (requireLength required len r).legal = true := by
  by_cases hlen : len.toNat = required
  · rw [requireLength_of_eq hlen, h]
  · rw [requireLength_of_ne hlen, raiseError_invalidLength_legal]

/-- A word of seven bits under status Correct: what ENC74 drives, and DEC74 for a zero syndrome. -/
theorem encodeResponse_seven_legal (w : BitVec 7) : (encodeResponse Config.nCw7 (w.setWidth 8)).legal = true := by
  simp [Response.legal, encodeResponse, Config.nCw7, Status.code, ErrorCode.code]

/-- A word of eight bits under status Correct: what ENC84 drives, and DEC84 in case 1. -/
theorem encodeResponse_eight_legal (w : Byte) : (encodeResponse Config.nCw8 w).legal = true := by
  simp [Response.legal, encodeResponse, Config.nCw8, Status.code, ErrorCode.code]

/-- A nonzero syndrome fits its field, and the index one below it too (42_decoders R121). -/
theorem syndrome_index_succ {body : BitVec 7} (h : syndromeOf body ≠ 0) :
    (syndromeOf body - 1) % 8 + 1 = syndromeOf body % 8 := by
  have hlt := syndromeOf_lt body
  omega

theorem syndrome_field_ne_zero {body : BitVec 7} (h : syndromeOf body ≠ 0) :
    BitVec.ofNat 3 (syndromeOf body) ≠ 0#3 := by
  have hlt := syndromeOf_lt body
  intro hzero
  have hnat := congrArg BitVec.toNat hzero
  rw [BitVec.toNat_ofNat, Nat.mod_eq_of_lt hlt] at hnat
  exact h hnat

theorem dec74Response_legal (din : Byte) : (dec74Response din).legal = true := by
  rw [dec74Response, decoder_ext_off]
  by_cases h : syndromeOf (bodyOperand din) = 0
  · rw [dec7_of_zero h]
    exact encodeResponse_seven_legal (bodyOperand din)
  · rw [dec7_of_ne_zero h]
    simp [Response.legal, decodeResponse, Config.nCw7, Status.code, ErrorCode.code, syndrome_index_succ h]

/-- By the four cases of 42_decoders R128. -/
theorem dec84Response_legal (din : Byte) : (dec84Response din).legal = true := by
  rw [dec84Response, decoder_ext_on]
  by_cases h : syndromeOf (bodyOperand din) = 0 <;> cases hx : overallXor din
  case pos.false =>
    rw [dec8_case1 h hx]
    exact encodeResponse_eight_legal din
  case pos.true =>
    rw [dec8_case3 h hx]
    simp [Response.legal, decodeResponse, Config.nCw8, Status.code, ErrorCode.code]
  case neg.false =>
    rw [dec8_case4 h hx]
    simp [Response.legal, decodeResponse, Config.nCw8, Status.code, ErrorCode.code, syndrome_field_ne_zero h]
  case neg.true =>
    rw [dec8_case2 h hx]
    simp [Response.legal, decodeResponse, Config.nCw8, Status.code, ErrorCode.code, syndrome_index_succ h]

theorem hammingCore_legal (op : Opcode) (len : LenField) (din : Byte) :
    (hammingCore (packCommand op len din)).legal = true := by
  match op with
  | 0b000#3 =>
    rw [hammingCore_enc74]
    exact requireLength_legal (encodeResponse_seven_legal _) 4 len
  | 0b001#3 =>
    rw [hammingCore_enc84]
    exact requireLength_legal (encodeResponse_eight_legal _) 4 len
  | 0b010#3 =>
    rw [hammingCore_dec74]
    exact requireLength_legal (dec74Response_legal din) 7 len
  | 0b011#3 =>
    rw [hammingCore_dec84]
    exact requireLength_legal (dec84Response_legal din) 8 len
  | 0b100#3 =>
    by_cases hpath : 8 ≤ len.toNat
    · rw [hammingCore_decauto_of_le hpath]
      exact requireLength_legal (dec84Response_legal din) 8 len
    · rw [hammingCore_decauto_of_not_le hpath]
      exact requireLength_legal (dec74Response_legal din) 7 len
  | 0b101#3 =>
    rw [hammingCore_reserved101]
    exact raiseError_invalidOperation_legal
  | 0b110#3 =>
    rw [hammingCore_reserved110]
    exact raiseError_invalidOperation_legal
  | 0b111#3 =>
    rw [hammingCore_reserved111]
    exact raiseError_invalidOperation_legal

/-- Settles O35: what a step leaves on the output ports is `core` of some command, whatever stood there before. -/
theorem stepKeepsOutputsLegal : Obligations.StepKeepsOutputsLegal := by
  unfold Obligations.StepKeepsOutputsLegal
  intro s t _ hstep r hr
  obtain ⟨c, -, rfl⟩ := step_next_core hstep
  rw [answer_outputs] at hr
  rw [← OutputPorts.carry.inj hr, ← packCommand_fields c]
  exact hammingCore_legal _ _ _

end Sys2Proof.Machine

/-! PROOFS of the family 40_parity_check: the parity primitive is the linear map H, so a flip adds its position to the
syndrome, and the parity bits an encoder sets cancel the parity of the data. -/

namespace Sys2Proof.Machine

/-! ### The three checks as one number (40_parity_check R90, R91) -/

@[simp] theorem Parity.s_getElem (p : Parity) : p.s[0] = p.p1 ∧ p.s[1] = p.p2 ∧ p.s[2] = p.p4 := by
  obtain ⟨p1, p2, p4⟩ := p
  revert p1 p2 p4
  decide

theorem Parity.s_eq_of_bits {p : Parity} {v : BitVec 3} (h1 : p.p1 = v[0]) (h2 : p.p2 = v[1]) (h4 : p.p4 = v[2]) :
    p.s = v := by
  ext i hi
  match i, hi with
  | 0, _ => simp [h1]
  | 1, _ => simp [h2]
  | 2, _ => simp [h4]

/-- `nat(s) = p4*4 + p2*2 + p1` (40_parity_check R93). -/
theorem Parity.s_toNat (p : Parity) : p.s.toNat = p.p4.toNat * 4 + p.p2.toNat * 2 + p.p1.toNat := by
  obtain ⟨p1, p2, p4⟩ := p
  revert p1 p2 p4
  decide

theorem syndromeOf_eq_s_toNat (c : BitVec 7) : syndromeOf c = (parityCheckMatrixMult c).s.toNat :=
  (Parity.s_toNat _).symm

theorem xorAll_parityMatrixRow (c : BitVec 7) :
    xorAll (parityMatrixRow 0 &&& c) = (parityCheckMatrixMult c).p1
      ∧ xorAll (parityMatrixRow 1 &&& c) = (parityCheckMatrixMult c).p2
      ∧ xorAll (parityMatrixRow 2 &&& c) = (parityCheckMatrixMult c).p4 := by
  simp [xorAll_seven, parityMatrixRow, parityCheckMatrixMult]

theorem parityCheckMatrixMult_s_eq_parityByMatrix (c : BitVec 7) :
    (parityCheckMatrixMult c).s = parityByMatrix c := by
  obtain ⟨h1, h2, h4⟩ := xorAll_parityMatrixRow c
  exact Parity.s_eq_of_bits (by simp [parityByMatrix, h1]) (by simp [parityByMatrix, h2]) (by simp [parityByMatrix, h4])

/-- Column `j` of H is the number `j`: its bits in the three rows (40_parity_check R91). -/
theorem parityMatrixRow_getLsbD : ∀ (k : Fin 3) (j : Fin 7),
    (parityMatrixRow k).getLsbD j.val = (j.val + 1).testBit k.val := by decide

/-! ### Linearity (40_parity_check R92) -/

/-- Addition of parities over GF(2), check by check. -/
def Parity.add (p q : Parity) : Parity where
  p1 := p.p1 ^^ q.p1
  p2 := p.p2 ^^ q.p2
  p4 := p.p4 ^^ q.p4

theorem Parity.add_s (p q : Parity) : (p.add q).s = p.s ^^^ q.s :=
  Parity.s_eq_of_bits (by simp [Parity.add]) (by simp [Parity.add]) (by simp [Parity.add])

theorem Parity.add_self (p : Parity) : p.add p = { p1 := false, p2 := false, p4 := false } := by
  simp [Parity.add]

theorem parityCheckMatrixMult_xor (a b : BitVec 7) :
    parityCheckMatrixMult (a ^^^ b) = (parityCheckMatrixMult a).add (parityCheckMatrixMult b) := by
  simp [parityCheckMatrixMult, Parity.add, Bool.xor_left_comm]

theorem syndromeOf_xor (a b : BitVec 7) : syndromeOf (a ^^^ b) = syndromeOf a ^^^ syndromeOf b := by
  simp only [syndromeOf_eq_s_toNat, parityCheckMatrixMult_xor, Parity.add_s, BitVec.toNat_xor]

theorem syndromeOf_twoPow : ∀ j : Fin 7, syndromeOf (BitVec.twoPow 7 j.val) = j.val + 1 := by decide

/-- A flip adds its position to the syndrome, whatever the syndrome was. -/
theorem syndromeOf_flipBit (c : BitVec 7) (j : Fin 7) : syndromeOf (flipBit c j.val) = syndromeOf c ^^^ (j.val + 1) := by
  rw [flipBit, syndromeOf_xor, syndromeOf_twoPow]

theorem syndromeOf_flipBit_of_zero {c : BitVec 7} (hc : syndromeOf c = 0) (j : Fin 7) :
    syndromeOf (flipBit c j.val) = j.val + 1 := by
  rw [syndromeOf_flipBit, hc, Nat.zero_xor]

theorem syndromeOf_flipBit_flipBit_of_zero {c : BitVec 7} (hc : syndromeOf c = 0) (j k : Fin 7) :
    syndromeOf (flipBit (flipBit c j.val) k.val) = (j.val + 1) ^^^ (k.val + 1) := by
  rw [syndromeOf_flipBit, syndromeOf_flipBit_of_zero hc]

theorem position_xor_ne_zero {j k : Fin 7} (hjk : j ≠ k) : (j.val + 1) ^^^ (k.val + 1) ≠ 0 := by
  rw [Nat.xor_ne_zero_iff]
  omega

/-! ### Codewords have zero parity (40_parity_check R94) -/

/-- Position 1, 2 or 4 counts in one check only, so setting the three, zero in `place d`, adds `p` to the parity. -/
theorem parityCheckMatrixMult_setParity_place (d : BitVec 4) (p : Parity) :
    parityCheckMatrixMult (setParity (place d) p) = p.add (parityCheckMatrixMult (place d)) := by
  simp [parityCheckMatrixMult, setParity, place, Parity.add]

theorem parityCheckMatrixMult_hamming74Encoder (d : BitVec 4) :
    parityCheckMatrixMult (hamming74Encoder d) = { p1 := false, p2 := false, p4 := false } := by
  rw [hamming74Encoder, parityCheckMatrixMult_setParity_place, Parity.add_self]

/-- Settles O29: each check is a row of H, parity is additive, and an encoder's parity bits cancel the parity of its data. -/
theorem parityBlockIsTheLinearMapH : Obligations.ParityBlockIsTheLinearMapH := by
  unfold Obligations.ParityBlockIsTheLinearMapH
  refine ⟨fun c => ?_, fun j => ?_, fun a b => ?_, fun c j k hc => ⟨?_, fun hjk => ?_⟩,
    parityCheckMatrixMult_hamming74Encoder⟩
  · exact ⟨rfl, rfl, rfl, parityCheckMatrixMult_s_eq_parityByMatrix c, syndromeOf_eq_s_toNat c⟩
  · exact ⟨parityMatrixRow_getLsbD 0 j, parityMatrixRow_getLsbD 1 j, parityMatrixRow_getLsbD 2 j, syndromeOf_twoPow j⟩
  · rw [parityCheckMatrixMult_xor]
    exact ⟨rfl, rfl, rfl⟩
  · exact syndromeOf_flipBit_of_zero hc j
  · rw [syndromeOf_flipBit_flipBit_of_zero hc]
    exact ⟨rfl, position_xor_ne_zero hjk⟩

end Sys2Proof.Machine

/-! PROOFS of the family 41_encoders: the codewords in closed form, the encoders' words, and what the matching decode
gives for a codeword, as it was driven and with one bit flipped. -/

namespace Sys2Proof

/-! ### The words of an operation (30_encoding R60, R71) -/

theorem setWidth_eq_packCommand (din : Byte) : din.setWidth 15 = packCommand 0#3 0#4 din := by
  apply BitVec.eq_of_toNat_eq
  have hlt := din.isLt
  rw [packCommand_toNat, BitVec.toNat_setWidth_of_le (by decide)]
  simp

/-- A row's pattern is a command with no data, so data put into it by OR is its `din` field. -/
theorem packCommand_or_setWidth (op : Opcode) (len : LenField) (din : Byte) :
    packCommand op len 0x00#8 ||| din.setWidth 15 = packCommand op len din := by
  calc packCommand op len 0x00#8 ||| din.setWidth 15
      = packCommand op len 0x00#8 ||| packCommand 0#3 0#4 din := by rw [setWidth_eq_packCommand]
    _ = (op ||| 0#3) ++ ((len ||| 0#4) ++ (0x00#8 ||| din)) :=
        BitVec.or_append.trans (congrArg _ BitVec.or_append)
    _ = packCommand op len din := by rw [BitVec.or_zero, BitVec.or_zero, BitVec.zero_or, packCommand]

/-- The words `pattern | din[3:0]` of an operation on four data bits. -/
theorem decode_pattern_or_data (op : Opcode) (len : LenField) (d : BitVec 4) :
    decode (packCommand op len 0x00#8 ||| d.setWidth 15) = decodeFields op len (d.setWidth 8) := by
  have hwiden : d.setWidth 15 = (d.setWidth 8).setWidth 15 := (BitVec.setWidth_setWidth (by decide)).symm
  rw [hwiden, packCommand_or_setWidth, decode_packCommand]

end Sys2Proof

namespace Sys2Proof.Machine

/-! ### The shared operations -/

/-- The length check as a test of the `len` field. -/
theorem requireLength_eq_ite_field {required : Nat} (h : required < 2 ^ 4) (len : LenField) (r : Response) :
    requireLength required len r = if len = BitVec.ofNat 4 required then r else raiseError .invalidLength := by
  simp only [requireLength, BitVec.toNat_eq_nat, h, true_and]

/-! #### The arms at the length their operation performs -/

theorem exec_enc74_of_length (din : Byte) (s : State) :
    exec (.enc74 4#4 din) s = .next (s.answer (enc74Response (dataOperand din))) := rfl

theorem exec_enc84_of_length (din : Byte) (s : State) :
    exec (.enc84 4#4 din) s = .next (s.answer (enc84Response (dataOperand din))) := rfl

theorem exec_dec74_of_length (din : Byte) (s : State) :
    exec (.dec74 7#4 din) s = .next (s.answer (dec74Response din)) := rfl

theorem exec_dec84_of_length (din : Byte) (s : State) :
    exec (.dec84 8#4 din) s = .next (s.answer (dec84Response din)) := rfl

/-! #### The fields of a response -/

@[simp] theorem enc74Response_dout (d : BitVec 4) : (enc74Response d).dout = (hamming74Encoder d).setWidth 8 := rfl

@[simp] theorem enc84Response_dout (d : BitVec 4) : (enc84Response d).dout = hamming84Encoder d := rfl

@[simp] theorem decodeResponse_dout (olen : Nat) (d : DecodeResult) : (decodeResponse olen d).dout = d.corr := rfl

/-- The host reads an index exactly where the decoder has one (70_reset R177). -/
@[simp] theorem decodeResponse_errorIndex (olen : Nat) (d : DecodeResult) :
    (decodeResponse olen d).errorIndex = d.errorIndex.map BitVec.toNat := by
  cases h : d.errorIndex <;> simp [Response.errorIndex, decodeResponse, h]

/-! ### The closed form of the encoders (41_encoders R102, R104) -/

/-- The elements of the Hamming(7,4) codeword, in index order. -/
def codewordElements (d : BitVec 4) : List Bool :=
  [ d.getLsbD 0 ^^ d.getLsbD 1 ^^ d.getLsbD 3,
    d.getLsbD 0 ^^ d.getLsbD 2 ^^ d.getLsbD 3,
    d.getLsbD 0,
    d.getLsbD 1 ^^ d.getLsbD 2 ^^ d.getLsbD 3,
    d.getLsbD 1, d.getLsbD 2, d.getLsbD 3 ]

theorem hamming74Encoder_getLsbD (d : BitVec 4) (i : Nat) (h : i < 7) :
    (hamming74Encoder d).getLsbD i = (codewordElements d).getD i false := by
  interval_cases i <;> simp [hamming74Encoder, setParity, place, parityCheckMatrixMult, codewordElements]

/-- Both encoders: the seven elements and, at index 7, the bit `b`. -/
theorem ofBool_append_hamming74Encoder (b : Bool) (d : BitVec 4) :
    BitVec.ofBool b ++ hamming74Encoder d = vectorBits (codewordElements d ++ [b]) := by
  apply BitVec.eq_of_getLsbD_eq
  intro i hi
  rw [vectorBits_getLsbD _ hi, BitVec.getLsbD_append]
  by_cases hbody : i < 7
  · rw [if_pos (by simpa), hamming74Encoder_getLsbD d i hbody, List.getD_append _ _ _ _ hbody]
  · have htop : i = 7 := by omega
    simp [htop, codewordElements]

/-- `zext_8` puts a 0 at index 7. -/
theorem setWidth_eight_eq_append (c : BitVec 7) : c.setWidth 8 = BitVec.ofBool false ++ c :=
  BitVec.setWidth_eq_append (by decide)

/-- "`d[3]` cancels": it stands in p1, p2, p4 and at position 7. -/
theorem xorAll_hamming74Encoder (d : BitVec 4) :
    xorAll (hamming74Encoder d) = (d.getLsbD 0 ^^ d.getLsbD 1 ^^ d.getLsbD 2) := by
  have hcancel : ∀ d0 d1 d2 d3 : Bool,
      ((d0 ^^ d1 ^^ d3) ^^ (d0 ^^ d2 ^^ d3) ^^ d0 ^^ (d1 ^^ d2 ^^ d3) ^^ d1 ^^ d2 ^^ d3) = (d0 ^^ d1 ^^ d2) := by decide
  rw [xorAll_seven]
  simp (disch := decide) only [hamming74Encoder_getLsbD, codewordElements, List.getD_cons_zero, List.getD_cons_succ]
  exact hcancel _ _ _ _

theorem enc74Response_eq_vectorBits (d : BitVec 4) :
    enc74Response d = encodeResponse 7 (vectorBits (codewordElements d ++ [false])) := by
  rw [enc74Response, Config.nCw7, setWidth_eight_eq_append, ofBool_append_hamming74Encoder]

theorem enc84Response_eq_vectorBits (d : BitVec 4) : enc84Response d
    = encodeResponse 8 (vectorBits (codewordElements d ++ [d.getLsbD 0 ^^ d.getLsbD 1 ^^ d.getLsbD 2])) := by
  rw [enc84Response, Config.nCw8, hamming84Encoder, ofBool_append_hamming74Encoder, xorAll_hamming74Encoder]

/-! ### The body, the overall parity and the data of a word -/

@[simp] theorem bodyOperand_append (b : Bool) (c : BitVec 7) : bodyOperand (BitVec.ofBool b ++ c) = c :=
  BitVec.extractLsb'_append_eq_right

theorem bodyOperand_setWidth (c : BitVec 7) : bodyOperand (c.setWidth 8) = c := by
  rw [setWidth_eight_eq_append, bodyOperand_append]

theorem bodyOperand_hamming84Encoder (d : BitVec 4) : bodyOperand (hamming84Encoder d) = hamming74Encoder d :=
  bodyOperand_append _ _

theorem overallXor_append (b : Bool) (c : BitVec 7) : overallXor (BitVec.ofBool b ++ c) = (xorAll c ^^ b) := by
  simp only [overallXor_bits, xorAll_seven, BitVec.getLsbD_append]
  simp

/-- Every extended codeword has even weight (41_encoders R104). -/
theorem overallXor_hamming84Encoder (d : BitVec 4) : overallXor (hamming84Encoder d) = false := by
  rw [hamming84Encoder, overallXor_append, Bool.xor_self]

theorem dataOf_append_hamming74Encoder (b : Bool) (d : BitVec 4) :
    dataOf (BitVec.ofBool b ++ hamming74Encoder d) = d := by
  ext i hi
  rw [ofBool_append_hamming74Encoder]
  interval_cases i <;> simp [dataOf, vectorBits, codewordElements]

/-! ### A codeword as it was driven -/

/-- A codeword has syndrome 0 (40_parity_check R94). -/
theorem syndromeOf_hamming74Encoder (d : BitVec 4) : syndromeOf (hamming74Encoder d) = 0 := by
  simp [syndromeOf, parityCheckMatrixMult_hamming74Encoder]

theorem syndromeOf_bodyOperand_hamming84Encoder (d : BitVec 4) : syndromeOf (bodyOperand (hamming84Encoder d)) = 0 := by
  rw [bodyOperand_hamming84Encoder, syndromeOf_hamming74Encoder]

theorem dec74Response_of_zero {c : BitVec 7} (h : syndromeOf c = 0) :
    dec74Response (c.setWidth 8) = encodeResponse 7 (c.setWidth 8) := by
  rw [dec74Response, decoder_ext_off, bodyOperand_setWidth, dec7_of_zero h]
  rfl

theorem dec84Response_of_case1 {r : Byte} (h : syndromeOf (bodyOperand r) = 0) (hx : overallXor r = false) :
    dec84Response r = encodeResponse 8 r := by
  rw [dec84Response, decoder_ext_on, dec8_case1 h hx]
  rfl

/-! ### A codeword with one bit flipped -/

@[simp] theorem flipBit_flipBit {n : Nat} (v : BitVec n) (i : Nat) : flipBit (flipBit v i) i = v := by
  rw [flipBit, flipBit, BitVec.xor_assoc, BitVec.xor_self, BitVec.xor_zero]

theorem bodyOperand_xor (a b : Byte) : bodyOperand (a ^^^ b) = bodyOperand a ^^^ bodyOperand b :=
  BitVec.extractLsb'_xor

/-- A flip below index 7 is a flip of the body. -/
theorem bodyOperand_flipBit (r : Byte) (i : Fin 7) : bodyOperand (flipBit r i.val) = flipBit (bodyOperand r) i.val := by
  have hbit : ∀ i : Fin 7, bodyOperand (BitVec.twoPow 8 i.val) = BitVec.twoPow 7 i.val := by decide
  rw [flipBit, bodyOperand_xor, hbit, flipBit]

/-- A flip of the overall parity bit leaves the body. -/
theorem bodyOperand_flipBit_seven (r : Byte) : bodyOperand (flipBit r 7) = bodyOperand r := by
  have hbit : bodyOperand (BitVec.twoPow 8 7) = 0#7 := rfl
  rw [flipBit, bodyOperand_xor, hbit, BitVec.xor_zero]

theorem foldl_xor_xor (f g : Nat → Bool) (l : List Nat) (x y : Bool) :
    l.foldl (fun acc i => acc ^^ (f i ^^ g i)) (x ^^ y)
      = (l.foldl (fun acc i => acc ^^ f i) x ^^ l.foldl (fun acc i => acc ^^ g i) y) := by
  induction l generalizing x y with
  | nil => rfl
  | cons i l ih =>
    have hswap : (x ^^ y ^^ (f i ^^ g i)) = (x ^^ f i ^^ (y ^^ g i)) := by
      rw [Bool.xor_assoc, Bool.xor_left_comm y, ← Bool.xor_assoc]
    rw [List.foldl_cons, hswap, ih, List.foldl_cons, List.foldl_cons]

/-- The XOR of all bits is linear, as the three checks are. -/
theorem xorAll_xor {n : Nat} (a b : BitVec n) : xorAll (a ^^^ b) = (xorAll a ^^ xorAll b) := by
  simp only [xorAll, BitVec.getLsbD_xor]
  exact foldl_xor_xor a.getLsbD b.getLsbD (List.range n) false false

/-- A flip of any bit changes the overall parity. -/
theorem overallXor_flipBit (r : Byte) (i : Fin 8) : overallXor (flipBit r i.val) = !overallXor r := by
  have hbit : ∀ i : Fin 8, overallXor (BitVec.twoPow 8 i.val) = true := by decide
  rw [flipBit, overallXor, xorAll_xor, ← overallXor, ← overallXor, hbit, Bool.xor_true]

/-- The 7-bit decoder undoes one flip of a word of syndrome 0 and names it (42_decoders R123). -/
theorem dec7_flipBit_of_zero {c : BitVec 7} (h : syndromeOf c = 0) (i : Fin 7) :
    dec7 (flipBit c i.val) = { corr := c.setWidth 8, status := .corrected, syndrome := BitVec.ofNat 3 (i.val + 1),
                               opv := false, errorIndex := some (BitVec.ofNat 3 i.val) } := by
  have hsyn := syndromeOf_flipBit_of_zero h i
  have hne : syndromeOf (flipBit c i.val) ≠ 0 := by omega
  rw [dec7_of_ne_zero hne, hsyn, Nat.add_sub_cancel, flipBit_flipBit]

/-- The 8-bit decoder undoes one flip below index 7 of a word of syndrome 0 and even weight, and names it (42_decoders
R128 case 2). -/
theorem dec8_flipBit_of_zero {r : Byte} (h : syndromeOf (bodyOperand r) = 0) (hx : overallXor r = false) (i : Fin 7) :
    dec8 (flipBit r i.val) = { corr := r, status := .corrected, syndrome := BitVec.ofNat 3 (i.val + 1),
                               opv := true, errorIndex := some (BitVec.ofNat 3 i.val) } := by
  have hsyn : syndromeOf (bodyOperand (flipBit r i.val)) = i.val + 1 := by
    rw [bodyOperand_flipBit, syndromeOf_flipBit_of_zero h]
  have hne : syndromeOf (bodyOperand (flipBit r i.val)) ≠ 0 := by omega
  have hodd : overallXor (flipBit r i.val) = true := by
    rw [← Fin.val_castSucc, overallXor_flipBit, hx, Bool.not_false]
  rw [dec8_case2 hne hodd, hsyn, Nat.add_sub_cancel, flipBit_flipBit]

/-- And one flip of the overall parity bit (42_decoders R128 case 3). -/
theorem dec8_flipBit_seven_of_zero {r : Byte} (h : syndromeOf (bodyOperand r) = 0) (hx : overallXor r = false) :
    dec8 (flipBit r 7)
      = { corr := r, status := .corrected, syndrome := 0#3, opv := true, errorIndex := some 7#3 } := by
  have hsyn : syndromeOf (bodyOperand (flipBit r 7)) = 0 := by rw [bodyOperand_flipBit_seven, h]
  have hodd : overallXor (flipBit r 7) = true := (overallXor_flipBit r 7).trans (congrArg not hx)
  rw [dec8_case3 hsyn hodd, flipBit_flipBit]

/-- What the host reads after one flip in 7-bit mode: the index, and the codeword as it was. -/
theorem dec74Response_flipBit_of_zero {c : BitVec 7} (h : syndromeOf c = 0) (i : Fin 7) :
    (dec74Response (flipBit (c.setWidth 8) i.val)).errorIndex = some i.val
      ∧ (dec74Response (flipBit (c.setWidth 8) i.val)).dout = c.setWidth 8 := by
  have hindex : i.val < 8 := by omega
  rw [dec74Response, decoder_ext_off, bodyOperand_flipBit, bodyOperand_setWidth, dec7_flipBit_of_zero h]
  simp [Nat.mod_eq_of_lt hindex]

/-- What the host reads after one flip in 8-bit mode, at any of the eight indices. -/
theorem dec84Response_flipBit_of_zero {r : Byte} (h : syndromeOf (bodyOperand r) = 0) (hx : overallXor r = false)
    (i : Fin 8) :
    (dec84Response (flipBit r i.val)).errorIndex = some i.val ∧ (dec84Response (flipBit r i.val)).dout = r := by
  rw [dec84Response, decoder_ext_on]
  cases i using Fin.lastCases with
  | last =>
    rw [Fin.val_last, dec8_flipBit_seven_of_zero h hx]
    exact ⟨rfl, rfl⟩
  | cast i =>
    have hindex : i.val < 8 := by omega
    rw [Fin.val_castSucc, dec8_flipBit_of_zero h hx]
    simp [Nat.mod_eq_of_lt hindex]

/-! ### The obligations -/

/-- Settles O18: the closed form of the codeword with a 0 at index 7, and the decoder's reading of the row's words. -/
theorem enc74DrivesTheHammingCodeword : Obligations.Enc74DrivesTheHammingCodeword := by
  unfold Obligations.Enc74DrivesTheHammingCodeword
  refine ⟨fun len din s => ?_, decode_pattern_or_data 0b000#3 4#4⟩
  rw [exec_enc74, requireLength_eq_ite_field (by decide), enc74Response_eq_vectorBits]
  simp only [codewordElements, dataOperand_getLsbD]
  rfl

/-- Settles O19: the seven elements and their XOR at index 7. -/
theorem enc84DrivesTheExtendedCodeword : Obligations.Enc84DrivesTheExtendedCodeword := by
  unfold Obligations.Enc84DrivesTheExtendedCodeword
  refine ⟨fun len din s => ?_, decode_pattern_or_data 0b001#3 4#4, fun d => ⟨overallXor_hamming84Encoder d, ?_⟩⟩
  · rw [exec_enc84, requireLength_eq_ite_field (by decide), enc84Response_eq_vectorBits]
    simp only [codewordElements, dataOperand_getLsbD]
    rfl
  · rw [← bodyOperand, bodyOperand_hamming84Encoder, hamming84Encoder, BitVec.getLsbD_append]
    simp

/-- Settles O30: a codeword has syndrome 0, and an extended one even weight too. -/
theorem noiselessDecodeIsCorrect : Obligations.NoiselessDecodeIsCorrect := by
  unfold Obligations.NoiselessDecodeIsCorrect
  intro din s
  refine ⟨⟨_, _, exec_enc74_of_length din s, answer_outputs _ _, ?_⟩,
    _, _, exec_enc84_of_length din s, answer_outputs _ _, ?_⟩
  · rw [enc74Response_dout, exec_dec74_of_length, dec74Response_of_zero (syndromeOf_hamming74Encoder _)]
    rfl
  · rw [enc84Response_dout, exec_dec84_of_length, dec84Response_of_case1 (syndromeOf_bodyOperand_hamming84Encoder _)
      (overallXor_hamming84Encoder _)]
    rfl

/-- Settles O32: the flipped word has the codeword's syndrome plus a position, so the decoder returns the codeword, and
its positions 3, 5, 6, 7 are the data. -/
theorem dataSurvivesOneFlippedBit : Obligations.DataSurvivesOneFlippedBit := by
  unfold Obligations.DataSurvivesOneFlippedBit
  intro din s
  have hdata7 : dataOf ((hamming74Encoder (dataOperand din)).setWidth 8) = dataOperand din := by
    rw [setWidth_eight_eq_append, dataOf_append_hamming74Encoder]
  have hdata8 : dataOf (hamming84Encoder (dataOperand din)) = dataOperand din := dataOf_append_hamming74Encoder _ _
  refine ⟨⟨_, exec_enc74_of_length din s, hdata7, fun i => ?_⟩,
    _, exec_enc84_of_length din s, hdata8, fun i => ?_⟩
  · obtain ⟨hindex, hdout⟩ := dec74Response_flipBit_of_zero (syndromeOf_hamming74Encoder (dataOperand din)) i
    exact ⟨_, exec_dec74_of_length _ s, hindex, (congrArg dataOf hdout).trans hdata7⟩
  · obtain ⟨hindex, hdout⟩ := dec84Response_flipBit_of_zero (syndromeOf_bodyOperand_hamming84Encoder (dataOperand din))
      (overallXor_hamming84Encoder _) i
    exact ⟨_, exec_dec84_of_length _ s, hindex, (congrArg dataOf hdout).trans hdata8⟩

end Sys2Proof.Machine

/-! PROOFS of the family 42_decoders: the decoders' responses over the bits of `din`, DECAUTO's two paths, and what a
codeword with one or two flipped bits is decoded to. -/

namespace Sys2Proof

/-- The words `pattern | din[7:0]` of an operation on a whole byte (30_encoding R71). -/
theorem decode_pattern_or_byte (op : Opcode) (len : LenField) (din : Byte) :
    decode (packCommand op len 0x00#8 ||| din.setWidth 15) = decodeFields op len din := by
  rw [packCommand_or_setWidth, decode_packCommand]

/-- The words `pattern | din[6:0]` of an operation on seven bits. -/
theorem decode_pattern_or_body (op : Opcode) (len : LenField) (r : BitVec 7) :
    decode (packCommand op len 0x00#8 ||| r.setWidth 15) = decodeFields op len (r.setWidth 8) := by
  have hwiden : r.setWidth 15 = (r.setWidth 8).setWidth 15 := (BitVec.setWidth_setWidth (by decide)).symm
  rw [hwiden, decode_pattern_or_byte]

end Sys2Proof

namespace Sys2Proof.Machine

/-! ### DECAUTO's arms at the length their path performs, and the decodes on their ports -/

theorem exec_decauto7_of_length (din : Byte) (s : State) :
    exec (.decauto7 7#4 din) s = .next (s.answer (dec74Response din)) := rfl

theorem exec_decauto8_of_length (din : Byte) (s : State) :
    exec (.decauto8 8#4 din) s = .next (s.answer (dec84Response din)) := rfl

theorem dec74Response_eq (din : Byte) : dec74Response din = decodeResponse 7 (dec7 (bodyOperand din)) := rfl

theorem dec84Response_eq (din : Byte) : dec84Response din = decodeResponse 8 (dec8 din) := rfl

theorem dec74Response_setWidth (c : BitVec 7) : dec74Response (c.setWidth 8) = decodeResponse 7 (dec7 c) := by
  rw [dec74Response_eq, bodyOperand_setWidth]

/-! ### The words a decoder returns, element by element -/

/-- A word on the byte bus is the vector of its elements (20_memory R41). -/
theorem setWidth_eq_vectorBits {n : Nat} (v : BitVec n) {f : Nat → Bool} (h : ∀ j < n, v.getLsbD j = f j) :
    v.setWidth 8 = vectorBits ((List.range n).map f) := by
  apply BitVec.eq_of_getLsbD_eq
  intro i hi
  rw [vectorBits_getLsbD _ hi, BitVec.getLsbD_setWidth]
  by_cases hin : i < n
  · simpa [hi, hin] using h i hin
  · simp [hin, BitVec.getLsbD_of_ge v i (Nat.le_of_not_lt hin)]

theorem byte_eq_vectorBits (r : Byte) {f : Nat → Bool} (h : ∀ j < 8, r.getLsbD j = f j) :
    r = vectorBits ((List.range 8).map f) := by
  rw [← setWidth_eq_vectorBits r h, BitVec.setWidth_eq]

/-- `flip` at index `i`, bit by bit (00_scope R12). -/
theorem flipBit_getLsbD {n : Nat} (v : BitVec n) (i : Nat) {j : Nat} (hj : j < n) :
    (flipBit v i).getLsbD j = (v.getLsbD j ^^ decide (j = i)) := by
  rw [BitVec.getLsbD_eq_getElem hj, flipBit_getElem, BitVec.getLsbD_eq_getElem hj]

/-- `flip` at position `p`, which is index `p - 1` (42_decoders R121). -/
theorem flipBit_pred_getLsbD {n : Nat} (v : BitVec n) {p j : Nat} (hp : p ≠ 0) (hj : j < n) :
    (flipBit v (p - 1)).getLsbD j = (v.getLsbD j ^^ decide (j + 1 = p)) := by
  have hindex : j = p - 1 ↔ j + 1 = p := by omega
  rw [flipBit_getLsbD v _ hj, decide_eq_decide.mpr hindex]

theorem bodyOperand_getLsbD_of_lt (din : Byte) {j : Nat} (hj : j < 7) :
    (bodyOperand din).getLsbD j = din.getLsbD j := by
  rw [bodyOperand_getLsbD, decide_eq_true hj, Bool.true_and]

/-! ### The syndrome over the bits of `din` (42_decoders R120) -/

theorem syndromeOf_bodyOperand (din : Byte) : syndromeOf (bodyOperand din)
    = (din.getLsbD 3 ^^ din.getLsbD 4 ^^ din.getLsbD 5 ^^ din.getLsbD 6).toNat * 4
      + (din.getLsbD 1 ^^ din.getLsbD 2 ^^ din.getLsbD 5 ^^ din.getLsbD 6).toNat * 2
      + (din.getLsbD 0 ^^ din.getLsbD 2 ^^ din.getLsbD 4 ^^ din.getLsbD 6).toNat := by
  simp (disch := decide) only [syndromeOf, parityCheckMatrixMult, bodyOperand_getLsbD_of_lt]

/-! ### The width of a 7-bit decode (42_decoders R126) -/

theorem setWidth_eight_getLsbD_seven (c : BitVec 7) : (c.setWidth 8).getLsbD 7 = false := by
  rw [BitVec.getLsbD_setWidth, BitVec.getLsbD_of_ge c 7 le_rfl, Bool.and_false]

/-- Whatever DEC7 returns is seven bits, widened by a 0. -/
theorem dec7_corr_getLsbD_seven (r : BitVec 7) : (dec7 r).corr.getLsbD 7 = false := by
  by_cases h : syndromeOf r = 0
  · rw [dec7_of_zero h, setWidth_eight_getLsbD_seven]
  · rw [dec7_of_ne_zero h, setWidth_eight_getLsbD_seven]

theorem dec74Response_flipBit_seven (din : Byte) : dec74Response (flipBit din 7) = dec74Response din :=
  dec74Response_congr (bodyOperand_flipBit_seven din)

/-! ### A word with two bits flipped -/

/-- DEC7 names and flips the position that the syndrome is (42_decoders R122). -/
theorem dec7_of_syndrome_succ {r : BitVec 7} {k : Nat} (h : syndromeOf r = k + 1) :
    dec7 r = { corr := (flipBit r k).setWidth 8, status := .corrected, syndrome := BitVec.ofNat 3 (k + 1),
               opv := false, errorIndex := some (BitVec.ofNat 3 k) } := by
  have hne : syndromeOf r ≠ 0 := by omega
  rw [dec7_of_ne_zero hne, h, Nat.add_sub_cancel]

/-- The XOR of two positions is a third (42_decoders R124). -/
theorem exists_third_position : ∀ i j : Fin 7, i ≠ j →
    ∃ k : Fin 7, k ≠ i ∧ k ≠ j ∧ k.val + 1 = (i.val + 1) ^^^ (j.val + 1) := by decide

/-- A third flip does not undo the first two: its own bit stays inverted. -/
theorem flipBit_three_ne {n : Nat} (c : BitVec n) {i j k : Fin n} (hki : k ≠ i) (hkj : k ≠ j) :
    flipBit (flipBit (flipBit c i.val) j.val) k.val ≠ c := by
  intro hsame
  have hbit := congrArg (·[k.val]) hsame
  simp [Fin.val_ne_of_ne hki, Fin.val_ne_of_ne hkj] at hbit

/-- Two flips of a word of syndrome 0 leave in the syndrome the XOR of their positions, of which a flip of the overall
parity bit has none (42_decoders R131). -/
theorem syndromeOf_bodyOperand_two_flips {r : Byte} (h : syndromeOf (bodyOperand r) = 0) {i j : Fin 8} (hij : i < j) :
    syndromeOf (bodyOperand (flipBit (flipBit r i.val) j.val))
        = (if j.val = 7 then i.val + 1 else (i.val + 1) ^^^ (j.val + 1))
      ∧ syndromeOf (bodyOperand (flipBit (flipBit r i.val) j.val)) ≠ 0 := by
  obtain ⟨i, rfl⟩ := Fin.exists_castSucc_eq.mpr (Fin.ne_last_of_lt hij)
  cases j using Fin.lastCases with
  | last =>
    rw [Fin.val_last, Fin.val_castSucc, bodyOperand_flipBit_seven, bodyOperand_flipBit, syndromeOf_flipBit_of_zero h]
    exact ⟨rfl, Nat.succ_ne_zero _⟩
  | cast j =>
    have hne : i ≠ j := fun heq => hij.ne (congrArg Fin.castSucc heq)
    rw [Fin.val_castSucc, Fin.val_castSucc, bodyOperand_flipBit, bodyOperand_flipBit,
      syndromeOf_flipBit_flipBit_of_zero h, if_neg j.isLt.ne]
    exact ⟨rfl, position_xor_ne_zero hne⟩

theorem overallXor_flipBit_flipBit (r : Byte) (i j : Fin 8) :
    overallXor (flipBit (flipBit r i.val) j.val) = overallXor r := by
  rw [overallXor_flipBit, overallXor_flipBit, Bool.not_not]

/-- One flip of a word of syndrome 0 and even weight, at any of the eight indices, is undone and named (42_decoders
R131). -/
theorem dec8_one_flip {r : Byte} (h : syndromeOf (bodyOperand r) = 0) (hx : overallXor r = false) (i : Fin 8) :
    dec8 (flipBit r i.val)
      = { corr := r, status := .corrected, syndrome := if i.val = 7 then 0#3 else BitVec.ofNat 3 (i.val + 1),
          opv := true, errorIndex := some (BitVec.ofNat 3 i.val) } := by
  cases i using Fin.lastCases with
  | last => exact dec8_flipBit_seven_of_zero h hx
  | cast i => rw [Fin.val_castSucc, dec8_flipBit_of_zero h hx, if_neg i.isLt.ne]

/-! ### The obligations -/

/-- Settles O20: the syndrome of the body picks DEC7's outcome, and a flip is read off bit by bit. -/
theorem dec74FlipsTheSyndromePosition : Obligations.Dec74FlipsTheSyndromePosition := by
  unfold Obligations.Dec74FlipsTheSyndromePosition
  refine ⟨fun len din s => ?_, decode_pattern_or_body 0b010#3 7#4⟩
  intro syn
  have hsyn : syndromeOf (bodyOperand din) = syn := syndromeOf_bodyOperand din
  rw [exec_dec74, requireLength_eq_ite_field (by decide), dec74Response_eq]
  by_cases h : syn = 0
  · rw [dec7_of_zero (hsyn.trans h), setWidth_eq_vectorBits _ fun _ => bodyOperand_getLsbD_of_lt din, if_pos h]
    rfl
  · have hbits (j : Nat) (hj : j < 7) :
        (flipBit (bodyOperand din) (syn - 1)).getLsbD j = (din.getLsbD j ^^ decide (j + 1 = syn)) := by
      rw [flipBit_pred_getLsbD _ h hj, bodyOperand_getLsbD_of_lt din hj]
    rw [dec7_of_ne_zero (hsyn ▸ h), hsyn, setWidth_eq_vectorBits _ hbits, if_neg h]
    rfl

/-- Settles O21: by the two questions R128 asks, whether the syndrome is 0 and what the overall parity is. -/
theorem dec84FollowsTheFourCases : Obligations.Dec84FollowsTheFourCases := by
  unfold Obligations.Dec84FollowsTheFourCases
  refine ⟨fun len din s => ?_, decode_pattern_or_byte 0b011#3 8#4⟩
  intro syn x
  have hsyn : syndromeOf (bodyOperand din) = syn := syndromeOf_bodyOperand din
  have hxor : overallXor din = x := overallXor_bits din
  clear_value syn x
  rw [exec_dec84, requireLength_eq_ite_field (by decide), dec84Response_eq]
  by_cases h : syn = 0 <;> cases x
  case pos.false =>
    rw [dec8_case1 (hsyn.trans h) hxor]
    subst h
    rfl
  case pos.true =>
    have hword := byte_eq_vectorBits (flipBit din 7) fun _ => flipBit_getLsbD din 7
    rw [dec8_case3 (hsyn.trans h) hxor, hword]
    subst h
    rfl
  case neg.false =>
    rw [dec8_case4 (hsyn ▸ h) hxor, hsyn]
    simp only [h, false_and, and_false, reduceCtorEq, if_false]
    rfl
  case neg.true =>
    have hword := byte_eq_vectorBits (flipBit din (syn - 1)) fun _ => flipBit_pred_getLsbD din h
    rw [dec8_case2 (hsyn ▸ h) hxor, hsyn, hword]
    simp only [h, false_and, ne_eq, not_false_eq_true, and_self, if_true, if_false]
    rfl

/-- Settles O22: the decoder's row of DECAUTO is the path, and each path checks its length. -/
theorem decautoPicksThePathByLength : Obligations.DecautoPicksThePathByLength := by
  unfold Obligations.DecautoPicksThePathByLength
  refine ⟨fun len din s => ?_, fun din s => ⟨exec_decauto7_of_length din s,
    exec_dec74_of_length din s, exec_decauto8_of_length din s, exec_dec84_of_length din s⟩⟩
  by_cases hpath : 8 ≤ len.toNat
  · rw [decodeFields_decauto_of_le hpath, exec_decauto8, requireLength_eq_ite, if_pos hpath, State.answer]
  · rw [decodeFields_decauto_of_not_le hpath, exec_decauto7, requireLength_eq_ite, if_neg hpath, State.answer]

/-- Settles O23: a 7-bit decode sees the body only, which a flip of index 7 leaves. -/
theorem sevenBitModeDrivesSevenBits : Obligations.SevenBitModeDrivesSevenBits := by
  unfold Obligations.SevenBitModeDrivesSevenBits
  intro din s
  refine ⟨dec74Response din, exec_dec74_of_length din s, ?_, exec_decauto7_of_length din s, ?_, rfl,
    dec7_corr_getLsbD_seven _⟩
  · rw [exec_dec74_of_length, dec74Response_flipBit_seven, State.answer]
  · rw [exec_decauto7_of_length, dec74Response_flipBit_seven, State.answer]

/-- Settles O31: a codeword has syndrome 0, so DEC7 undoes the flip. -/
theorem dec74CorrectsEverySingleError : Obligations.Dec74CorrectsEverySingleError := by
  unfold Obligations.Dec74CorrectsEverySingleError
  intro d i s
  rw [exec_dec74_of_length, dec74Response_setWidth, dec7_flipBit_of_zero (syndromeOf_hamming74Encoder d)]
  rfl

/-- Settles O33: the syndrome of two flips is a third position, which DEC7 flips too. -/
theorem dec74MiscorrectsEveryDoubleError : Obligations.Dec74MiscorrectsEveryDoubleError := by
  unfold Obligations.Dec74MiscorrectsEveryDoubleError
  refine ⟨exec_dec74_of_length, fun d i j s hij => ?_⟩
  obtain ⟨k, hki, hkj, hk⟩ := exists_third_position i j hij
  have hsyn := syndromeOf_flipBit_flipBit_of_zero (syndromeOf_hamming74Encoder d) i j
  refine ⟨k, hki, hkj, hk, flipBit_three_ne _ hki hkj, ?_⟩
  rw [exec_dec74_of_length, dec74Response_setWidth, dec7_of_syndrome_succ (hsyn.trans hk.symm)]
  rfl

/-- Settles O34: each flip changes the overall parity and adds its position, if it has one, to the syndrome, so no flip
is case 1, one is case 2 or 3, and two are case 4. -/
theorem dec84IsSecded : Obligations.Dec84IsSecded := by
  unfold Obligations.Dec84IsSecded
  refine ⟨exec_dec84_of_length, fun d s => ?_⟩
  have hsyn := syndromeOf_bodyOperand_hamming84Encoder d
  have hx := overallXor_hamming84Encoder d
  refine ⟨?_, fun i => ?_, fun i j hij => ?_⟩
  · rw [exec_dec84_of_length, dec84Response_of_case1 hsyn hx]
    rfl
  · rw [exec_dec84_of_length, dec84Response_eq, dec8_one_flip hsyn hx]
    rfl
  · obtain ⟨hsyn2, hne⟩ := syndromeOf_bodyOperand_two_flips hsyn hij
    have hx2 := (overallXor_flipBit_flipBit (hamming84Encoder d) i j).trans hx
    have hfield := syndrome_field_ne_zero hne
    rw [← apply_ite (BitVec.ofNat 3), ← hsyn2]
    refine ⟨?_, hfield⟩
    rw [exec_dec84_of_length, dec84Response_eq, dec8_case4 hne hx2]
    rfl

end Sys2Proof.Machine

/-! PROOFS of the family 60_exceptions: a command is reserved, has a wrong length, or is performed; only a performed one
has a status other than Correct, and no answer outlives the next command. -/

namespace Sys2Proof

/-- The lengths of the operations, by the number of the code. -/
theorem mem_requiredLengths_iff (op : Opcode) (n : Nat) : n ∈ requiredLengths op ↔
    (op.toNat ≤ 1 ∧ n = 4) ∨ (op.toNat = 2 ∧ n = 7) ∨ (op.toNat = 3 ∧ n = 8)
      ∨ (op.toNat = 4 ∧ (n = 7 ∨ n = 8)) := by
  match op with
  | 0b000#3 => simp [requiredLengths]
  | 0b001#3 => simp [requiredLengths]
  | 0b010#3 => simp [requiredLengths]
  | 0b011#3 => simp [requiredLengths]
  | 0b100#3 => simp [requiredLengths]
  | 0b101#3 => simp [requiredLengths]
  | 0b110#3 => simp [requiredLengths]
  | 0b111#3 => simp [requiredLengths]

end Sys2Proof

namespace Sys2Proof.Machine

/-! ### The errors as responses (60_exceptions R151) -/

theorem raiseError_invalidLength_word : (raiseError .invalidLength).word = 0x040000#24 := by decide

theorem raiseError_invalidOperation_word : (raiseError .invalidOperation).word = 0x0C0000#24 := by decide

/-! ### Reserved, of a wrong length, or performed (60_exceptions R156) -/

theorem hammingCore_of_reserved {op : Opcode} (hop : 5 ≤ op.toNat) (len : LenField) (din : Byte) :
    hammingCore (packCommand op len din) = raiseError .invalidOperation := by
  match op with
  | 0b000#3 => exact absurd hop (by decide)
  | 0b001#3 => exact absurd hop (by decide)
  | 0b010#3 => exact absurd hop (by decide)
  | 0b011#3 => exact absurd hop (by decide)
  | 0b100#3 => exact absurd hop (by decide)
  | 0b101#3 => exact hammingCore_reserved101 len din
  | 0b110#3 => exact hammingCore_reserved110 len din
  | 0b111#3 => exact hammingCore_reserved111 len din

/-- The response is an encode's or a decode's. -/
def IsResult (din : Byte) (r : Response) : Prop :=
  r = enc74Response (dataOperand din) ∨ r = enc84Response (dataOperand din) ∨ r = dec74Response din
    ∨ r = dec84Response din

theorem hammingCore_of_required_length {op : Opcode} {len : LenField} (hlen : len.toNat ∈ requiredLengths op)
    (din : Byte) : IsResult din (hammingCore (packCommand op len din)) := by
  match op with
  | 0b000#3 =>
    rw [hammingCore_enc74, requireLength_of_eq (List.mem_singleton.mp hlen)]
    exact .inl rfl
  | 0b001#3 =>
    rw [hammingCore_enc84, requireLength_of_eq (List.mem_singleton.mp hlen)]
    exact .inr (.inl rfl)
  | 0b010#3 =>
    rw [hammingCore_dec74, requireLength_of_eq (List.mem_singleton.mp hlen)]
    exact .inr (.inr (.inl rfl))
  | 0b011#3 =>
    rw [hammingCore_dec84, requireLength_of_eq (List.mem_singleton.mp hlen)]
    exact .inr (.inr (.inr rfl))
  | 0b100#3 =>
    obtain h7 | h8 : len.toNat = 7 ∨ len.toNat = 8 := List.mem_pair.mp hlen
    · rw [hammingCore_decauto_of_not_le (by omega), requireLength_of_eq h7]
      exact .inr (.inr (.inl rfl))
    · rw [hammingCore_decauto_of_le (by omega), requireLength_of_eq h8]
      exact .inr (.inr (.inr rfl))
  | 0b101#3 => exact absurd hlen List.not_mem_nil
  | 0b110#3 => exact absurd hlen List.not_mem_nil
  | 0b111#3 => exact absurd hlen List.not_mem_nil

/-- A valid operation, DECAUTO on either of its paths, at a length it does not perform. -/
theorem exec_decodeFields_of_wrong_length {op : Opcode} {len : LenField} (hop : op.toNat < 5)
    (hlen : len.toNat ∉ requiredLengths op) (din : Byte) (s : State) :
    exec (decodeFields op len din) s = .next (s.answer (raiseError .invalidLength)) := by
  rw [exec_decodeFields, hammingCore_of_wrong_length hop hlen]

/-! ### What a result says (60_exceptions R154) -/

theorem IsResult.err {din : Byte} {r : Response} (h : IsResult din r) : r.err = 0b00#2 := by
  obtain rfl | rfl | rfl | rfl := h
  · rfl
  · rfl
  · rfl
  · rfl

/-- An error's status field is 0, so any other status is a result's. -/
theorem isResult_of_status_ne_zero {op : Opcode} {len : LenField} {din : Byte}
    (h : (hammingCore (packCommand op len din)).status ≠ 0b00#2) :
    IsResult din (hammingCore (packCommand op len din)) := by
  by_cases hop : 5 ≤ op.toNat
  · rw [hammingCore_of_reserved hop] at h
    exact absurd rfl h
  · by_cases hlen : len.toNat ∈ requiredLengths op
    · exact hammingCore_of_required_length hlen din
    · rw [hammingCore_of_wrong_length (Nat.lt_of_not_le hop) hlen] at h
      exact absurd rfl h

theorem Status.code_eq_two_iff (st : Status) : st.code = 0b10#2 ↔ st = .doubleErrorDetected := by
  cases st with
  | correct => simp [Status.code]
  | corrected => simp [Status.code]
  | doubleErrorDetected => simp [Status.code]

theorem dec7_status_ne_doubleErrorDetected (r : BitVec 7) : (dec7 r).status ≠ .doubleErrorDetected := by
  intro hstatus
  by_cases h : syndromeOf r = 0
  · rw [dec7_of_zero h] at hstatus
    cases hstatus
  · rw [dec7_of_ne_zero h] at hstatus
    cases hstatus

/-- Case 4 of 42_decoders R128 is the only one of that status. -/
theorem dec8_corr_of_doubleErrorDetected {r : Byte} (hstatus : (dec8 r).status = .doubleErrorDetected) :
    (dec8 r).corr = r := by
  by_cases h : syndromeOf (bodyOperand r) = 0 <;> cases hx : overallXor r
  case pos.false => rw [dec8_case1 h hx]
  case pos.true =>
    rw [dec8_case3 h hx] at hstatus
    cases hstatus
  case neg.false => rw [dec8_case4 h hx]
  case neg.true =>
    rw [dec8_case2 h hx] at hstatus
    cases hstatus

/-- Only DEC84 drives status 10, and it then leaves the received word as it is. -/
theorem IsResult.olen_dout_of_status_two {din : Byte} {r : Response} (h : IsResult din r)
    (hstatus : r.status = 0b10#2) : r.olen = 8#4 ∧ r.dout = din := by
  obtain rfl | rfl | rfl | rfl := h
  · exact absurd ((Status.code_eq_two_iff .correct).mp hstatus) Status.noConfusion
  · exact absurd ((Status.code_eq_two_iff .correct).mp hstatus) Status.noConfusion
  · exact absurd ((Status.code_eq_two_iff _).mp hstatus) (dec7_status_ne_doubleErrorDetected _)
  · exact ⟨rfl, dec8_corr_of_doubleErrorDetected ((Status.code_eq_two_iff _).mp hstatus)⟩

/-- An index is present exactly with status Corrected. -/
theorem Response.eidxV_of_legal {r : Response} (h : r.legal = true) : r.eidxV = (r.status == 0b01#2) := by
  simp only [Response.legal, Bool.and_eq_true] at h
  obtain ⟨⟨⟨⟨-, heidxV⟩, -⟩, -⟩, -⟩ := h
  exact eq_of_beq heidxV

/-! ### The obligations -/

/-- Settles O25: every wrong length is one its operation does not perform. -/
theorem wrongLengthRaisesInvalidLength : Obligations.WrongLengthRaisesInvalidLength := by
  unfold Obligations.WrongLengthRaisesInvalidLength
  intro len din s
  have hwrong (op : Opcode) (hop : op.toNat < 5) (hlen : len.toNat ∉ requiredLengths op) :=
    exec_decodeFields_of_wrong_length hop hlen din s
  refine ⟨fun h4 => ⟨?_, ?_⟩, fun h7 => ?_, fun h8 => ?_, fun h7 h8 => ?_, raiseError_invalidLength_word⟩
  · exact hwrong 0b000#3 (by decide) (by simp [requiredLengths, h4])
  · exact hwrong 0b001#3 (by decide) (by simp [requiredLengths, h4])
  · exact hwrong 0b010#3 (by decide) (by simp [requiredLengths, h7])
  · exact hwrong 0b011#3 (by decide) (by simp [requiredLengths, h8])
  · exact hwrong 0b100#3 (by decide) (by simp [requiredLengths, h7, h8])

/-- Settles O26: by whether the code is reserved, and then by whether its operation performs the length. -/
theorem errorFieldFollowsThePriority : Obligations.ErrorFieldFollowsThePriority := by
  unfold Obligations.ErrorFieldFollowsThePriority
  intro s c hread
  refine ⟨_, _, step_answers_core hread, answer_outputs _ _, ?_⟩
  rw [← packCommand_fields c]
  simp only [cmdOp_packCommand, cmdLen_packCommand, ← mem_requiredLengths_iff]
  by_cases hop : 5 ≤ (cmdOp c).toNat
  · rw [hammingCore_of_reserved hop, if_pos hop]
    rfl
  · rw [if_neg hop]
    by_cases hlen : (cmdLen c).toNat ∈ requiredLengths (cmdOp c)
    · rw [(hammingCore_of_required_length hlen _).err, if_pos hlen]
    · rw [hammingCore_of_wrong_length (Nat.lt_of_not_le hop) hlen, if_neg hlen]
      rfl

/-- Settles O27: either status is a result's, whose `err` is 00, and what stands beside it is the decoder's. -/
theorem doubleErrorIsNoError : Obligations.DoubleErrorIsNoError := by
  unfold Obligations.DoubleErrorIsNoError
  intro s t c r hread hstep hr
  obtain rfl : hammingCore c = r := by
    rw [step_answers_core hread] at hstep
    cases hstep
    exact OutputPorts.carry.inj hr
  rw [← packCommand_fields c, cmdDin_packCommand]
  refine ⟨fun hstatus => ?_, fun hstatus => ?_⟩
  · have hresult := isResult_of_status_ne_zero (ne_of_eq_of_ne hstatus (by decide))
    exact ⟨hresult.err, hresult.olen_dout_of_status_two hstatus⟩
  · have hresult := isResult_of_status_ne_zero (ne_of_eq_of_ne hstatus (by decide))
    exact ⟨hresult.err, (Response.eidxV_of_legal (hammingCore_legal _ _ _)).trans (beq_iff_eq.mpr hstatus)⟩

/-- Settles O28: a run through a list of commands ends at the last one's answer, whatever came before it. -/
theorem errorsAreNotSticky : Obligations.ErrorsAreNotSticky := by
  unfold Obligations.ErrorsAreNotSticky
  intro s bad c
  exact ⟨State.answered c, run_withCommands_append_singleton [bad] c s, run_withCommands_append_singleton [] c s⟩

/-- Settles O24: the three arms raise InvalidOperation, and the decoder gives each code its own command. -/
theorem reservedCodesRaiseInvalidOperation : Obligations.ReservedCodesRaiseInvalidOperation := by
  unfold Obligations.ReservedCodesRaiseInvalidOperation
  refine ⟨fun len din s => ⟨exec_reserved101 len din s, exec_reserved110 len din s, exec_reserved111 len din s,
    raiseError_invalidOperation_word⟩, fun len din => ⟨?_, ?_, ?_⟩⟩
  · exact decode_packCommand 0b101#3 len din
  · exact decode_packCommand 0b110#3 len din
  · exact decode_packCommand 0b111#3 len din

end Sys2Proof.Machine

/-! PROOFS of the family 70_reset: the step answers exactly when the wires it uses are driven and held, a step leaves
what the host has still to present as driven and held as it was, and reset leaves nothing that a command could see. -/

namespace Sys2Proof.Machine

/-! ### When a command stands on the ports (70_reset R173, R175) -/

theorem keepsContract_iff (p : InputPorts) : p.keepsContract = true ↔
    p.settled = true ∧ usedDriven 0b111#3 p.op = true ∧ usedDriven 0b1111#4 p.len = true
      ∧ usedDriven (usedDin (wireBits p.op) (wireBits p.len)) p.din = true := by
  simp only [InputPorts.keepsContract, Bool.and_eq_true, and_assoc]

theorem exists_readCommand_iff (p : InputPorts) : (∃ c, readCommand p = .ok c) ↔ p.keepsContract = true := by
  constructor
  · rintro ⟨c, hread⟩
    obtain ⟨hsettled, hop, hlen, hdin, -⟩ := readCommand_eq_ok hread
    exact (keepsContract_iff p).mpr ⟨hsettled, hop, hlen, hdin⟩
  · exact fun hkeeps => ⟨_, readCommand_of_keepsContract hkeeps⟩

/-- One used wire that carries no bit breaks the port it belongs to. -/
theorem not_usedDriven_of_wire {n : Nat} {used : BitVec n} {w : Wires n} {i : Nat} (hi : i < n)
    (hused : used.getLsbD i = true) (hwire : Level.isDriven w[i] = false) : ¬ usedDriven used w = true := by
  rw [usedDriven_iff]
  intro hall
  exact Bool.false_ne_true (hwire.symm.trans (hall i hi hused))

theorem opMask_getLsbD : ∀ i < 3, (0b111#3).getLsbD i = true := by decide

theorem lenMask_getLsbD : ∀ i < 4, (0b1111#4).getLsbD i = true := by decide

/-! ### When the step answers -/

theorem step_answers_iff (s : State) : (∃ t, step s = .next t) ↔ s.present.inputs.keepsContract = true := by
  rw [← exists_readCommand_iff]
  constructor
  · rintro ⟨t, hstep⟩
    obtain ⟨c, hread, -⟩ := step_next_core hstep
    exact ⟨c, hread⟩
  · exact fun ⟨c, hread⟩ => ⟨_, step_answers_core hread⟩

/-- A step stops only on the ports it reads, so it never refuses (30_encoding R66). -/
theorem step_answers_or_faults (s : State) : (∃ t, step s = .next t) ∨ ∃ f, step s = .fault f := by
  cases hread : readCommand s.present.inputs with
  | ok c => exact .inl ⟨_, step_answers_core hread⟩
  | error f => exact .inr ⟨f, step_of_fault hread⟩

theorem step_faults_iff (s : State) : (∃ f, step s = .fault f) ↔ s.present.inputs.keepsContract = false := by
  rw [← Bool.not_eq_true, ← step_answers_iff]
  constructor
  · rintro ⟨f, hfault⟩ ⟨t, hnext⟩
    cases hfault.symm.trans hnext
  · exact (step_answers_or_faults s).resolve_left

theorem step_ne_refused (s : State) (r : Refusal) : step s ≠ .refused r := by
  intro hrefused
  rcases step_answers_or_faults s with ⟨t, hnext⟩ | ⟨f, hfault⟩
  · cases hrefused.symm.trans hnext
  · cases hrefused.symm.trans hfault

/-! ### What the host has still to present -/

/-- The host's move takes the next inputs from its commands, and all of the rest are still to come. -/
theorem present_inputsDrivenAndHeld {s : State} (h : s.InputsDrivenAndHeld) :
    s.present.inputs.keepsContract = true ∧ ∀ p ∈ s.present.pending, p.keepsContract = true := by
  obtain ⟨hheld, hpending⟩ := h
  cases hs : s.pending with
  | nil =>
    rw [present_of_nil s hs]
    exact ⟨hheld hs, hpending⟩
  | cons p rest =>
    rw [hs, List.forall_mem_cons] at hpending
    rw [present_of_cons s p rest hs]
    exact hpending

theorem step_inputsDrivenAndHeld {s t : State} (h : s.InputsDrivenAndHeld) (hstep : step s = .next t) :
    t.InputsDrivenAndHeld := by
  obtain ⟨c, -, rfl⟩ := step_next_core hstep
  obtain ⟨hinputs, hpending⟩ := present_inputsDrivenAndHeld h
  exact ⟨fun _ => hinputs, hpending⟩

theorem step_answers_of_inputsDrivenAndHeld {s : State} (h : s.InputsDrivenAndHeld) : ∃ t, step s = .next t :=
  (step_answers_iff s).mpr (present_inputsDrivenAndHeld h).1

theorem runsSafely_of_inputsDrivenAndHeld {s : State} (h : s.InputsDrivenAndHeld) : s.RunsSafely := by
  intro k
  induction k generalizing s with
  | zero => exact ⟨s, run_zero s⟩
  | succ k ih =>
    obtain ⟨t, hstep⟩ := step_answers_of_inputsDrivenAndHeld h
    rw [run_succ_of_next k hstep]
    exact ih (step_inputsDrivenAndHeld h hstep)

/-! ### Samples before and after `T_SETTLE` (70_reset R175) -/

theorem readCommand_of_not_settled {p : InputPorts} (h : p.settled = false) :
    readCommand p = .error .sampledBeforeSettle := by
  simp [readCommand, h]

theorem step_pending_of_not_settled (s : State) {p : InputPorts} (rest : List InputPorts) (h : p.settled = false) :
    step { s with pending := p :: rest } = .fault .sampledBeforeSettle := by
  apply step_of_fault
  rw [present_of_cons _ p rest rfl]
  exact readCommand_of_not_settled h

/-- From `T_SETTLE` on, how long the inputs were held is not seen. -/
theorem ofCommand_heldFor_of_le (c : CmdWord) {held : Nat} (h : Config.tSettle ≤ held) :
    (InputPorts.ofCommand c).heldFor held = InputPorts.ofCommand c := by
  simp [InputPorts.heldFor, InputPorts.ofCommand, h]

theorem step_ofCommand_pending_core (s : State) (c : CmdWord) (rest : List InputPorts) :
    step { s with pending := InputPorts.ofCommand c :: rest }
      = .next { inputs := InputPorts.ofCommand c, outputs := .carry (hammingCore c), pending := rest } :=
  (step_ofCommand_pending s c rest).trans (exec_decode c _)

/-! ### The first command after reset (70_reset R171) -/

/-- The load of notes/assumptions/2 drives all 15 bits of a command word. -/
theorem withFetchWord_toNat (s : State) (c : CmdWord) :
    s.withFetchWord 16 c.toNat = { s with pending := InputPorts.ofCommand c :: s.pending } := by
  have hfits : c.toNat % 2 ^ 16 = c.toNat := Nat.mod_eq_of_lt (by omega)
  rw [State.withFetchWord, hfits, BitVec.ofNat_toNat, BitVec.setWidth_eq]

theorem step_withFetchWord (s : State) (c : CmdWord) :
    step (s.withFetchWord 16 c.toNat)
      = .next { inputs := InputPorts.ofCommand c, outputs := .carry (hammingCore c), pending := s.pending } := by
  rw [withFetchWord_toNat, step_ofCommand_pending_core]

theorem reset_outputs_ne_carry (r : Response) : State.reset.outputs ≠ .carry r := OutputPorts.noConfusion

/-! ### The obligations -/

/-- Settles O47: the inputs presented next are driven and held, so the step answers, and the inputs left on the wires
and the rest of the commands are driven and held again. -/
theorem stepKeepsInputsDrivenAndHeld : Obligations.StepKeepsInputsDrivenAndHeld := by
  unfold Obligations.StepKeepsInputsDrivenAndHeld
  intro s h
  exact ⟨step_answers_of_inputsDrivenAndHeld h, fun _ => step_inputsDrivenAndHeld h⟩

/-- Settles O13: whichever port the wire belongs to, `keepsContract` fails, and then the step faults. -/
theorem undrivenUsedWireFaults : Obligations.UndrivenUsedWireFaults := by
  unfold Obligations.UndrivenUsedWireFaults
  intro s hwire
  rw [step_faults_iff, ← Bool.not_eq_true, keepsContract_iff]
  rintro ⟨-, hop, hlen, hdin⟩
  rcases hwire with ⟨i, hi, hwire⟩ | ⟨i, hi, hwire⟩ | ⟨i, hi, hused, hwire⟩
  · exact not_usedDriven_of_wire hi (opMask_getLsbD i hi) hwire hop
  · exact not_usedDriven_of_wire hi (lenMask_getLsbD i hi) hwire hlen
  · exact not_usedDriven_of_wire hi hused hwire hdin

/-- Settles O15: the ports are read as a command exactly when `keepsContract` holds, and no arm stops. -/
theorem stepAnswersExactlyWhenTheHostKeepsItsDuties : Obligations.StepAnswersExactlyWhenTheHostKeepsItsDuties := by
  unfold Obligations.StepAnswersExactlyWhenTheHostKeepsItsDuties
  exact fun s => ⟨step_answers_iff s, step_faults_iff s, step_ne_refused s⟩

/-- Settles O40, by induction on the number of steps with the invariant of O47. -/
theorem hostKeepingItsDutiesRunsSafely : Obligations.HostKeepingItsDutiesRunsSafely := by
  unfold Obligations.HostKeepingItsDutiesRunsSafely
  exact fun s hheld hpending => runsSafely_of_inputsDrivenAndHeld ⟨hheld, hpending⟩

/-- Settles O41: the response to a loaded command names no field of the state it is loaded into. -/
theorem firstCommandAfterResetAnswersAsAnyOther : Obligations.FirstCommandAfterResetAnswersAsAnyOther := by
  unfold Obligations.FirstCommandAfterResetAnswersAsAnyOther
  exact fun c s => ⟨_, _, step_withFetchWord State.reset c, step_withFetchWord s c, rfl, rfl⟩

/-- Settles O14: held for less than `T_SETTLE` a command is not settled; from then on it is the settled command. -/
theorem earlySampleFaults : Obligations.EarlySampleFaults := by
  unfold Obligations.EarlySampleFaults
  refine ⟨fun s p rest => step_pending_of_not_settled s rest, fun s c rest held => ?_⟩
  split
  case isTrue h => rw [ofCommand_heldFor_of_le c h, step_ofCommand_pending_core]
  case isFalse h =>
    apply step_pending_of_not_settled
    rw [heldFor_settled, decide_eq_false h]

/-- Settles O36: reset leaves no response on the ports. -/
theorem resetOutputsAreLegal : Obligations.ResetOutputsAreLegal := by
  unfold Obligations.ResetOutputsAreLegal
  exact fun r hr => absurd hr (reset_outputs_ne_carry r)

/-- Settles O38: reset leaves no response on the ports. -/
theorem resetOutputsFollowInputs : Obligations.ResetOutputsFollowInputs := by
  unfold Obligations.ResetOutputsFollowInputs
  exact fun r hr => absurd hr (reset_outputs_ne_carry r)

end Sys2Proof.Machine
